-- ==== Sys2Proof/Word.lean ====
section
/-! DEFINITION. The word types of the hardware (spec 00_scope.md R5, R7: every value is an unsigned integer of its width). -/

namespace Sys2Proof

/-- A memory cell, a general register, a timer: 8 bits (R5 `XLEN`, `TIMER_W`). -/
abbrev Byte := BitVec 8

/-- An instruction word, `pc`, `I`, a stack entry: 16 bits (R5 `ILEN`, `PC_W`, `I_W`). -/
abbrev Word := BitVec 16

/-- The index of a general register, `0..15` (R21, R71). -/
abbrev RegIdx := Fin 16

/-- The register that doubles as the carry and collision flag, `V[0xF]` (R22). -/
abbrev flagReg : RegIdx := 15

/-- The 16 key flags; bit `k` is logical key `k` (R31). -/
abbrev KeySet := BitVec 16

/-- The 2048 one-bit framebuffer cells; bit `k` is cell `k`, column `k mod 64`, row `k / 64` (R29). -/
abbrev FrameBits := BitVec 2048

end Sys2Proof
end

