-- ==== Sys2Proof/Config.lean ====
section
/-! DEFINITION. What is fixed for the machine (the parameters of spec 00_scope.md R5) and the free values: the environment
draws of R9, which the model may assume no law about. -/

namespace Sys2Proof.Config

/-- `MEM_SIZE`: the number of byte cells of memory (R5, R50). -/
@[simp] abbrev memSize : Nat := 4096

/-- `PROG_BASE`: where the Loader puts the image, and the reset value of `pc` (R5, R64). -/
@[simp] abbrev progBase : Nat := 0x200

/-- `PROG_MAX`: the longest image, `4096 - 0x200` (R5, R192). -/
@[simp] abbrev progMax : Nat := 3584

/-- `GLYPH_BYTES`: bytes per glyph (R5, R121). -/
@[simp] abbrev glyphBytes : Nat := 5

/-- `FB_W`: framebuffer width in pixels, the row stride of the cell index (R5, R29). -/
@[simp] abbrev fbWidth : Nat := 64

/-- `FB_CELLS`: framebuffer cells, indices `0..2047` (R5, R29). -/
@[simp] abbrev fbCells : Nat := 2048

/-- `NKEYS`: logical keys `0x0..0xF` (R5, R31). -/
@[simp] abbrev nKeys : Nat := 16

/-- How `WKEY` recognises a new press (R143, `KEYWAIT_TRIGGER`): `edge`, held now and not in the sample before;
`level`, held now. The value this hardware takes is `Machine.keywaitTrigger`. -/
inductive KeyTrigger where
  | edge
  | level
  deriving DecidableEq, Repr

/-- Free value: the answer of the `n`-th call of `HostOpen()` where State lists none (R9; log 1). -/
opaque hostOpen : Nat → Bool

/-- Free value: whether the host reads the framebuffer before the `n`-th cycle or poll, where State lists no answer
(R36; log 1, log 16). -/
opaque hostReadsFrame : Nat → Bool

/-- Free value: the answer of the `n`-th call of `SampleKeys()` where State lists none (R9; log 1). -/
opaque sampleKeys : Nat → BitVec 16

/-- Free value: the answer of the `n`-th call of `RandomByte()` where State lists none (R9, R114; log 1). -/
opaque randomByte : Nat → BitVec 8

end Sys2Proof.Config
end

