-- ==== Sys2Proof/Syntax.lean ====
section
/-! DEFINITION. The instructions: one constructor per row of spec/opcode_table.json (30_encoding.md R75), its operands the
fields of R71 at their own widths, so that no operand outside an encoding can be written. -/

namespace Sys2Proof

/-- The 17 supported instructions. `x` and `y` are register indices, `n`, `nn`, `nnn` the 4-, 8- and 12-bit immediates. -/
inductive Instr where
  /-- `1nnn` (R100). -/
  | jp (nnn : BitVec 12)
  /-- `3xnn` (R101). -/
  | se (x : RegIdx) (nn : Byte)
  /-- `4xnn` (R102). -/
  | sne (x : RegIdx) (nn : Byte)
  /-- `6xnn` (R110). -/
  | ld (x : RegIdx) (nn : Byte)
  /-- `7xnn` (R111). -/
  | addi (x : RegIdx) (nn : Byte)
  /-- `8xy2` (R112). -/
  | and (x y : RegIdx)
  /-- `8xy4` (R113). -/
  | add (x y : RegIdx)
  /-- `Annn` (R120). -/
  | ldi (nnn : BitVec 12)
  /-- `Cxnn` (R114). -/
  | rnd (x : RegIdx) (nn : Byte)
  /-- `Dxyn` (R130). -/
  | drw (x y : RegIdx) (n : BitVec 4)
  /-- `Ex9E` (R140). -/
  | skp (x : RegIdx)
  /-- `ExA1` (R141). -/
  | sknp (x : RegIdx)
  /-- `Fx0A` (R142). -/
  | wkey (x : RegIdx)
  /-- `Fx18` (R150). -/
  | ldst (x : RegIdx)
  /-- `Fx29` (R121). -/
  | ldf (x : RegIdx)
  /-- `Fx33` (R122). -/
  | bcd (x : RegIdx)
  /-- `Fx65` (R123). -/
  | ldm (x : RegIdx)
  deriving DecidableEq, Repr

/-- The mnemonic of R75, which labels the row of the opcode table an instruction belongs to. -/
def Instr.mnemonic : Instr → String
  | .jp _ => "JP"
  | .se _ _ => "SE"
  | .sne _ _ => "SNE"
  | .ld _ _ => "LD"
  | .addi _ _ => "ADDI"
  | .and _ _ => "AND"
  | .add _ _ => "ADD"
  | .ldi _ => "LDI"
  | .rnd _ _ => "RND"
  | .drw _ _ _ => "DRW"
  | .skp _ => "SKP"
  | .sknp _ => "SKNP"
  | .wkey _ => "WKEY"
  | .ldst _ => "LDST"
  | .ldf _ => "LDF"
  | .bcd _ => "BCD"
  | .ldm _ => "LDM"

end Sys2Proof
end

