-- ==== Sys2Proof/WellFormed.lean ====
section
/-! DEFINITION. What is well formed. An `Instr` is well formed by its types: every operand has exactly the width its encoding
gives it (30_encoding.md R71, R79), so no ill-formed instruction can be written. The checks are on the raw terms that
come from outside: an instruction word (does it match a row of the opcode map, R75) and a program image (does it fit,
20_memory.md R64). -/

namespace Sys2Proof

/-- One row of the opcode map of R75: a word `op` selects it iff `op & mask = pattern`. -/
structure OpcodeRow where
  mnemonic : String
  mask : Word
  pattern : Word
  deriving DecidableEq, Repr

/-- The opcode map of R75, row by row in the table's order. -/
def opcodeTable : List OpcodeRow :=
  [ ⟨"JP", 0xF000, 0x1000⟩, ⟨"SE", 0xF000, 0x3000⟩, ⟨"SNE", 0xF000, 0x4000⟩, ⟨"LD", 0xF000, 0x6000⟩,
    ⟨"ADDI", 0xF000, 0x7000⟩, ⟨"AND", 0xF00F, 0x8002⟩, ⟨"ADD", 0xF00F, 0x8004⟩, ⟨"LDI", 0xF000, 0xA000⟩,
    ⟨"RND", 0xF000, 0xC000⟩, ⟨"DRW", 0xF000, 0xD000⟩ ] ++
  [ ⟨"SKP", 0xF0FF, 0xE09E⟩, ⟨"SKNP", 0xF0FF, 0xE0A1⟩, ⟨"WKEY", 0xF0FF, 0xF00A⟩, ⟨"LDST", 0xF0FF, 0xF018⟩,
    ⟨"LDF", 0xF0FF, 0xF029⟩, ⟨"BCD", 0xF0FF, 0xF033⟩, ⟨"LDM", 0xF0FF, 0xF065⟩ ]

/-- The word `op` selects the row `r` (R75). -/
def OpcodeRow.selects (r : OpcodeRow) (op : Word) : Bool := op &&& r.mask == r.pattern

/-- The row an instruction belongs to, found by its mnemonic. -/
def Instr.row (i : Instr) : Option OpcodeRow := opcodeTable.find? (fun r => r.mnemonic == i.mnemonic)

/-- Check: the word matches a row of the opcode map (R75, R77). -/
def wordWf (op : Word) : Bool := opcodeTable.any (fun r => r.selects op)

/-- Check: the image fits the program space (R64: `len <= 3584`). -/
def imageWf (image : List Byte) : Bool := image.length ≤ Config.progMax

end Sys2Proof
end

