-- ==== Sys2Proof/Decode.lean ====
section
/-! DEFINITION. Decode (30_encoding.md R74) and, after it, the encoder (R72, R80). Decode is a function of the 16-bit word alone
(R74, R93) and total: a word that matches no pattern is `unsupported`, by name and with the word (R77). -/

namespace Sys2Proof

/-- "a closed sum type of decoded instructions" (R74): a supported instruction, or `Unsupported(op)`. -/
inductive Decoded where
  | instr (i : Instr)
  /-- The word matches no pattern; executing it is `UnsupportedInstruction(op)` (R77, R162). -/
  | unsupported (op : Word)
  deriving DecidableEq, Repr

/-- The reading of a byte sequence: an instruction and the bytes after it, an unsupported word, or too few bytes for a word. -/
inductive DecodedBytes where
  | instr (i : Instr) (rest : List Byte)
  | unsupported (op : Word)
  | truncated
  deriving DecidableEq, Repr

/-- `fam`, bits 15 to 12 (R71). -/
def famField (op : Word) : BitVec 4 := op.extractLsb' 12 4

/-- `x`, bits 11 to 8 (R71). -/
def xField (op : Word) : RegIdx := (op.extractLsb' 8 4).toFin

/-- `y`, bits 7 to 4 (R71). -/
def yField (op : Word) : RegIdx := (op.extractLsb' 4 4).toFin

/-- `n`, bits 3 to 0 (R71). -/
def nField (op : Word) : BitVec 4 := op.extractLsb' 0 4

/-- `nn`, bits 7 to 0 (R71). -/
def nnField (op : Word) : Byte := op.extractLsb' 0 8

/-- `nnn`, bits 11 to 0 (R71). -/
def nnnField (op : Word) : BitVec 12 := op.extractLsb' 0 12

/-- Family `8`: the sub-opcode is `n` (R74). -/
def decode8 (op : Word) : Decoded :=
  match nField op with
  | 0x2#4 => .instr (.and (xField op) (yField op))
  | 0x4#4 => .instr (.add (xField op) (yField op))
  | _ => .unsupported op

/-- Family `E`: the sub-opcode is `nn` (R74). -/
def decodeE (op : Word) : Decoded :=
  match nnField op with
  | 0x9E#8 => .instr (.skp (xField op))
  | 0xA1#8 => .instr (.sknp (xField op))
  | _ => .unsupported op

/-- Family `F`: the sub-opcode is `nn` (R74). -/
def decodeF (op : Word) : Decoded :=
  match nnField op with
  | 0x0A#8 => .instr (.wkey (xField op))
  | 0x18#8 => .instr (.ldst (xField op))
  | 0x29#8 => .instr (.ldf (xField op))
  | 0x33#8 => .instr (.bcd (xField op))
  | 0x65#8 => .instr (.ldm (xField op))
  | _ => .unsupported op

/-- `Decode(op)` of R74: first the family nibble, then the sub-opcode. -/
def decode (op : Word) : Decoded :=
  match famField op with
  | 0x1#4 => .instr (.jp (nnnField op))
  | 0x3#4 => .instr (.se (xField op) (nnField op))
  | 0x4#4 => .instr (.sne (xField op) (nnField op))
  | 0x6#4 => .instr (.ld (xField op) (nnField op))
  | 0x7#4 => .instr (.addi (xField op) (nnField op))
  | 0x8#4 => decode8 op
  | 0xA#4 => .instr (.ldi (nnnField op))
  | 0xC#4 => .instr (.rnd (xField op) (nnField op))
  | 0xD#4 => .instr (.drw (xField op) (yField op) (nField op))
  | 0xE#4 => decodeE op
  | 0xF#4 => decodeF op
  | _ => .unsupported op

/-- Two bytes as a word, the byte at the lower address the high byte (R55, R70). -/
def wordOfBytes (hi lo : Byte) : Word := hi ++ lo

/-- The high byte of a word, stored at the lower address (R55). -/
def highByte (op : Word) : Byte := op.extractLsb' 8 8

/-- The low byte of a word, stored at the higher address (R55). -/
def lowByte (op : Word) : Byte := op.extractLsb' 0 8

/-- Decode the first instruction of a byte sequence: one length, two bytes (R70). -/
def decodeBytes : List Byte → DecodedBytes
  | hi :: lo :: rest =>
    match decode (wordOfBytes hi lo) with
    | .instr i => .instr i rest
    | .unsupported op => .unsupported op
  | _ => .truncated

/-- A register index as the four bits of its field (R72). -/
def regBits (x : RegIdx) : BitVec 4 := BitVec.ofFin x

/-- Format `XNN` (R72). -/
def encodeXNN (fam : BitVec 4) (x : RegIdx) (nn : Byte) : Word := fam ++ regBits x ++ nn

/-- Formats `XYN` and `XYF` (R72). -/
def encodeXYN (fam : BitVec 4) (x y : RegIdx) (n : BitVec 4) : Word := fam ++ regBits x ++ regBits y ++ n

/-- Format `NNN` (R72). -/
def encodeNNN (fam : BitVec 4) (nnn : BitVec 12) : Word := fam ++ nnn

/-- The word of an instruction: its format of R72 with the fixed bits of R75 (format `XFF` is `XNN` with `nn` fixed). -/
def encode : Instr → Word
  | .jp nnn => encodeNNN 0x1 nnn
  | .se x nn => encodeXNN 0x3 x nn
  | .sne x nn => encodeXNN 0x4 x nn
  | .ld x nn => encodeXNN 0x6 x nn
  | .addi x nn => encodeXNN 0x7 x nn
  | .and x y => encodeXYN 0x8 x y 0x2
  | .add x y => encodeXYN 0x8 x y 0x4
  | .ldi nnn => encodeNNN 0xA nnn
  | .rnd x nn => encodeXNN 0xC x nn
  | .drw x y n => encodeXYN 0xD x y n
  | .skp x => encodeXNN 0xE x 0x9E
  | .sknp x => encodeXNN 0xE x 0xA1
  | .wkey x => encodeXNN 0xF x 0x0A
  | .ldst x => encodeXNN 0xF x 0x18
  | .ldf x => encodeXNN 0xF x 0x29
  | .bcd x => encodeXNN 0xF x 0x33
  | .ldm x => encodeXNN 0xF x 0x65

/-- An instruction as it lies in memory: two bytes, high byte first (R70). -/
def encodeBytes (i : Instr) : List Byte := [highByte (encode i), lowByte (encode i)]

/-- The word whose bits are `w` as the opcode table numbers them, at most `nbits` of them, the bits above zero. -/
def tableWord (nbits w : Nat) : Word := BitVec.ofNat 16 (w % 2 ^ nbits)

/-- The instruction the decoder reads from the word `w` of `nbits` bits, laid out in memory high byte first. -/
def decodeTableWord (nbits w : Nat) : Option Instr :=
  match decodeBytes [highByte (tableWord nbits w), lowByte (tableWord nbits w)] with
  | .instr i _ => some i
  | .unsupported _ => none
  | .truncated => none

end Sys2Proof
end

