-- ==== Sys2Proof/Machine/Memory.lean ====
section
/-! DEFINITION. Memory as plain data (20_memory.md R50, R52): a list of (address, byte) in one canonical form, where an address
that is not listed reads as its reset contents (10_state.md R28, R40). -/

namespace Sys2Proof.Machine

/-- `INIT_MEM`: the reset value of a cell outside the glyph area (R5, R40, D6).
DESIGN CHOICE (the spec's own; log 5), unsafe. -/
def initMem : Byte := 0x00

/-- `FONT`: the 80 glyph bytes, five a digit (R28). The first five are stated (R5, R28); bytes 5 to 79 are the default of an
open parameter, from general knowledge. PRESUMED (D7; log 6), unsafe: no statement rests on them. -/
def font : List Byte :=
  [0xF0, 0x90, 0x90, 0x90, 0xF0, 0x20, 0x60, 0x20, 0x20, 0x70, 0xF0, 0x10, 0xF0, 0x80, 0xF0] ++
  [0xF0, 0x10, 0xF0, 0x10, 0xF0, 0x90, 0x90, 0xF0, 0x10, 0x10, 0xF0, 0x80, 0xF0, 0x10, 0xF0] ++
  [0xF0, 0x80, 0xF0, 0x90, 0xF0, 0xF0, 0x10, 0x20, 0x40, 0x40, 0xF0, 0x90, 0xF0, 0x90, 0xF0] ++
  [0xF0, 0x90, 0xF0, 0x10, 0xF0, 0xF0, 0x90, 0xF0, 0x90, 0x90, 0xE0, 0x90, 0xE0, 0x90, 0xE0] ++
  [0xF0, 0x80, 0x80, 0x80, 0xF0, 0xE0, 0x90, 0x90, 0x90, 0xE0, 0xF0, 0x80, 0xF0, 0x80, 0xF0] ++
  [0xF0, 0x80, 0xF0, 0x80, 0x80]

/-- What an unlisted address reads as: the reset contents of R40, the glyphs from `FONT_BASE = 0x000` up, then `INIT_MEM`. -/
def resetByte (a : Nat) : Byte := font.getD a initMem

/-- Memory: the cells that differ from their reset contents, addresses strictly rising. -/
abbrev Memory := List Host.Cell

/-- The byte at an address (R53, R58): the listed value, else the reset contents. The bounds check is `memRead`'s. -/
def Memory.read : Memory → Nat → Byte
  | [], a => resetByte a
  | (k, b) :: m, a => if k = a then b else Memory.read m a

/-- Put a cell at its place in the rising list; the address is not listed yet. -/
def Memory.insert (a : Nat) (v : Byte) : Memory → Memory
  | [] => [(a, v)]
  | (k, b) :: m => if a < k then (a, v) :: (k, b) :: m else (k, b) :: Memory.insert a v m

/-- Take an address off the list, so that it reads as its reset contents. -/
def Memory.erase (a : Nat) (m : Memory) : Memory := m.filter (fun c => c.1 != a)

/-- Store a byte (R53, R58), keeping the canonical form: a value equal to the reset contents takes the entry away. -/
def Memory.write (m : Memory) (a : Nat) (v : Byte) : Memory :=
  if v = resetByte a then m.erase a else (m.erase a).insert a v

/-- The canonical form from address `lo` up. -/
def Memory.wfFrom (lo : Nat) : Memory → Bool
  | [] => true
  | (k, b) :: m => decide (lo ≤ k) && decide (k < Config.memSize) && (b != resetByte k) && Memory.wfFrom (k + 1) m

/-- The canonical form: addresses strictly rising and below `MEM_SIZE`, no entry equal to its reset contents. -/
def Memory.wf (m : Memory) : Bool := Memory.wfFrom 0 m

end Sys2Proof.Machine
end

