-- ==== Sys2Proof/Machine/State.lean ====
section
/-! DEFINITION. The state of the machine (spec 10_state.md R20: "exactly the following elements"), as plain data, and its
value after reset (R40). The fields after `fault` are the model's own: the level of the output `sound_expire` and the
environment draws that are already fixed. -/

namespace Sys2Proof.Machine

/-- What the engine does next (R32). -/
inductive Status where
  /-- The next step is a cycle (R90). -/
  | running
  /-- Inside the `Fx0A` of register `x`: the next step is a poll (R142). -/
  | waitKey (x : RegIdx)
  /-- A fault was raised: no further step (R164). -/
  | halted
  /-- The host closed the run: no further step (R91). -/
  | stopped
  deriving DecidableEq, Repr

/-- The index spaces an out-of-range access names (R51, R160). -/
inductive Space where
  | mem
  | fb
  | key
  deriving DecidableEq, Repr

/-- The contents of `fault`: kind and info of the three fatal conditions (R33, R160). -/
inductive FaultRecord where
  /-- Kind 1 (R161): the space and the offending address or index. -/
  | addressOutOfRange (space : Space) (index : Nat)
  /-- Kind 2 (R162): the offending opcode. -/
  | unsupportedInstruction (op : Word)
  /-- Kind 3 (R163): the image length in bytes. -/
  | imageTooLarge (len : Nat)
  deriving DecidableEq, Repr

/-- The draws of one environment function (R9): the answers already fixed, oldest first, and how many calls were made. A call
past the list is a free value (log 1). -/
structure Draws (α : Type) where
  pending : List α
  taken : Nat
  deriving DecidableEq, Repr

structure State where
  /-- `V[0..15]` (R21). -/
  v : Vector Byte 16
  /-- `I` (R23). -/
  i : Word
  /-- `pc` (R24). -/
  pc : Word
  /-- `stack[0..15]`, inert (R25). -/
  stack : Vector Word 16
  /-- `sp`, `0..16`, inert (R25). -/
  sp : Fin 17
  /-- `DT` (R26). -/
  dt : Byte
  /-- `ST` (R27). -/
  st : Byte
  /-- `mem[0..4095]` (R28). -/
  mem : Memory
  /-- `FB[0..2047]` (R29). -/
  fb : FrameBits
  /-- `fb_dirty` (R30). -/
  fbDirty : Bool
  /-- `keys[0..15]` (R31). -/
  keys : KeySet
  /-- `status` (R32). -/
  status : Status
  /-- `fault` (R33). -/
  fault : Option FaultRecord
  /-- The output `sound_expire` as it stood during the last step (R37, R152). The model's own; log 14. -/
  soundExpire : Bool
  /-- Answers of `HostOpen()` (R9). The model's own; log 1. -/
  openDraws : Draws Bool
  /-- Whether the host reads the framebuffer before the next cycle or poll (R36). The model's own; log 1, log 16. -/
  frameDraws : Draws Bool
  /-- Answers of `SampleKeys()` (R9). The model's own; log 1. -/
  keyDraws : Draws KeySet
  /-- Answers of `RandomByte()` (R9). The model's own; log 1. -/
  randDraws : Draws Byte
  deriving DecidableEq, Repr

/-- The state after reset (R40, R190), before the Loader runs. `pc` and the glyph of digit 0 are stated by the source; the
other values are the spec's decisions D1 to D8. DESIGN CHOICE (log 2, log 3, log 5, log 6, log 7, log 14, log 1), unsafe. -/
def State.reset : State where
  v := Vector.replicate 16 0x00
  i := 0x0000
  pc := 0x200
  stack := Vector.replicate 16 0x0000
  sp := 0
  dt := 0x00
  st := 0x00
  mem := []
  fb := 0
  fbDirty := false
  keys := 0
  status := .running
  fault := none
  soundExpire := false
  openDraws := ⟨[], 0⟩
  frameDraws := ⟨[], 0⟩
  keyDraws := ⟨[], 0⟩
  randDraws := ⟨[], 0⟩

/-- Why a step gives no next state. Raised by `step` alone; no instruction ends in one. -/
inductive Fault where
  /-- `step` in status `Halted`: "no further step exists" (R32, R98). Safe: the spec gives no step. -/
  | halted
  /-- `step` in status `Stopped`: "no further step exists" (R32, R98). Safe: the spec gives no step. -/
  | stopped
  deriving DecidableEq, Repr

/-- Why an instruction has no meaning. -/
inductive Refusal where
  /-- Raised by `exec` for an instruction whose meaning is not written. Safe. No arm raises it. -/
  | notModelled (mnemonic : String)
  deriving DecidableEq, Repr

/-- The outcome of a step or of an instruction. -/
abbrev Result := Host.Outcome State Fault Refusal

end Sys2Proof.Machine
end

