-- ==== Sys2Proof/Machine/Ops.lean ====
section
/-! DEFINITION. The shared operations over registers, `pc`, memory, faults, timers and the environment (00_scope.md R8, R9,
20_memory.md R53, 40_cycle.md R95, 46_timer.md R151, 60_exceptions.md R164). -/

namespace Sys2Proof.Machine

/-- `V[x]` (R21). No register is hardwired, and a 4-bit index is never out of range. -/
def State.reg (s : State) (x : RegIdx) : Byte := s.v[x]

/-- `V[x] <- b` (R21). -/
def State.setReg (s : State) (x : RegIdx) (b : Byte) : State := { s with v := s.v.set x b }

/-- `I <- w` (R23). -/
def State.setI (s : State) (w : Word) : State := { s with i := w }

/-- `ST <- b` (R27). -/
def State.setSt (s : State) (b : Byte) : State := { s with st := b }

/-- The default advance, `pc + 2` (R95). -/
def State.advance (s : State) : State := { s with pc := s.pc + 2 }

/-- A jump: `pc` takes the target and the default advance is suppressed (R8, R95, R100). -/
def State.jump (s : State) (target : Word) : State := { s with pc := target }

/-- A conditional skip: `pc + 4` when the condition holds, `pc + 2` otherwise (R95, R101). -/
def State.skipIf (s : State) (c : Bool) : State := { s with pc := if c then s.pc + 4 else s.pc + 2 }

/-- Fault entry, `raise K(info)` (R164): the fault is recorded and the engine halts. Nothing else changes (R165, D11; log 8):
nothing is saved, no handler runs, and there is no return from it (R167). -/
def State.raise (s : State) (f : FaultRecord) : State := { s with status := .halted, fault := some f }

/-- The numeric code of a fault's kind (R160, D12; log 9). -/
def FaultRecord.code : FaultRecord → Nat
  | .addressOutOfRange _ _ => 1
  | .unsupportedInstruction _ => 2
  | .imageTooLarge _ => 3

/-- `MemRead(addr, 1)` (R53): the check is on the full integer address, never reduced or masked. -/
def State.memRead (s : State) (a : Nat) : Except FaultRecord Byte :=
  if Config.memSize ≤ a then .error (.addressOutOfRange .mem a) else .ok (s.mem.read a)

/-- The fetch (R55, R92): the bytes at `pc` and `pc + 1`, big-endian, no alignment rule, no side effect. The lowest address
`>= 4096` among the two is the one reported (D12; log 9). -/
def State.fetch (s : State) : Except FaultRecord Word :=
  match s.memRead s.pc.toNat with
  | .error f => .error f
  | .ok b0 =>
    match s.memRead (s.pc.toNat + 1) with
    | .error f => .error f
    | .ok b1 => .ok (wordOfBytes b0 b1)

/-- Store bytes at ascending addresses (R56). The range is checked before (R165). -/
def Memory.store (m : Memory) (a : Nat) : List Byte → Memory
  | [] => m
  | b :: bs => Memory.store (m.write a b) (a + 1) bs

/-- `mem[a], mem[a+1], … <- bytes`. -/
def State.storeBytes (s : State) (a : Nat) (bytes : List Byte) : State := { s with mem := s.mem.store a bytes }

/-- One timer counts down by one and floors at zero (R151). -/
def countdown (t : Byte) : Byte := if t = 0 then 0 else t - 1

/-- `TimerTick()` (R151): both timers count down, and `sound_expire` is asserted when `ST` goes 1 to 0 (R152). -/
def State.timerTick (s : State) : State :=
  { s with dt := countdown s.dt, st := countdown s.st, soundExpire := s.st == 1 }

/-- The answer of the next call of an environment function: the oldest fixed answer, else the free value (R9; log 1). -/
def Draws.head {α : Type} (free : Nat → α) (d : Draws α) : α :=
  match d.pending with
  | a :: _ => a
  | [] => free d.taken

/-- The draws after one call. -/
def Draws.rest {α : Type} (d : Draws α) : Draws α := ⟨d.pending.tail, d.taken + 1⟩

/-- What `HostOpen()` answers when next called (R9, R91). -/
def State.hostOpenNow (s : State) : Bool := s.openDraws.head Config.hostOpen

/-- Whether the host reads the framebuffer before the next cycle or poll (R36). -/
def State.hostReadsNow (s : State) : Bool := s.frameDraws.head Config.hostReadsFrame

/-- What `SampleKeys()` answers when next called (R9). -/
def State.keySampleNow (s : State) : KeySet := s.keyDraws.head Config.sampleKeys

/-- What `RandomByte()` answers when next called (R9, R114). -/
def State.randomByteNow (s : State) : Byte := s.randDraws.head Config.randomByte

/-- `HostOpen()` was called. -/
def State.takeHostOpen (s : State) : State := { s with openDraws := s.openDraws.rest }

/-- `keys <- SampleKeys()`: the whole latch is replaced (R31, R91). -/
def State.latchKeys (s : State) : State := { s with keys := s.keySampleNow, keyDraws := s.keyDraws.rest }

/-- `RandomByte()` was called. -/
def State.takeRandom (s : State) : State := { s with randDraws := s.randDraws.rest }

/-- Between two cycles or polls (R35, R36): the host may read `FB`, which clears `fb_dirty` (R30, D25; log 16), and the one-cycle
output `sound_expire` of the step before ends (R37; log 14). -/
def State.betweenCycles (s : State) : State :=
  { s with fbDirty := s.fbDirty && !s.hostReadsNow, frameDraws := s.frameDraws.rest, soundExpire := false }

end Sys2Proof.Machine
end

