-- ==== Sys2Proof/Machine/Operands.lean ====
section
/-! DEFINITION. The operand forms: blocks of memory at `I` (43_index_memory.md R124), decimal digits (R122), the sprite's
target cells (44_draw.md R131, R132), the key index (45_keypad.md R144) and the newly pressed key (R143). -/

namespace Sys2Proof.Machine

/-- A block of `len` bytes at `I` reaches past the last cell: `len >= 1` and `I + len - 1 > 4095`, the sum unwrapped (R42,
R53, R54). Every access of an instruction is checked before any is performed (R165). -/
def State.blockOutOfRange (s : State) (len : Nat) : Bool := decide (1 ≤ len) && decide (4095 < s.i.toNat + len - 1)

/-- The fault of a block past the last cell: the address reported is 4096 (R161; log 9, log 21). -/
def blockFault : FaultRecord := .addressOutOfRange .mem 4096

/-- Hundreds, tens and ones of a byte (R122, D27; log 19). -/
def decimalDigits (v : Byte) : List Byte := [v / 100, (v / 10) % 10, v % 10]

/-- `V[k] <- mem[base + k]` for `k = 0 .. count - 1`, ascending (R56, R123). -/
def loadRegs (m : Memory) (base : Nat) (v : Vector Byte 16) : Nat → Vector Byte 16
  | 0 => v
  | k + 1 => (loadRegs m base v k).setIfInBounds k (m.read (base + k))

/-- The pixel of a sprite row at column offset `col`: bit `7 - col`, the most significant bit leftmost (R131). -/
def spritePixel (row : Byte) (col : Nat) : Bool := row.getLsbD (7 - col)

/-- The framebuffer cell of a sprite bit: `V[x] + col + (V[y] + row) * 64`, an exact integer (R132, D15; log 10). -/
def targetCell (vx vy row col : Nat) : Nat := vx + col + (vy + row) * Config.fbWidth

/-- The target cells of one sprite row, left to right (R130). -/
def rowTargets (m : Memory) (base vx vy row : Nat) : List Nat :=
  ((List.range 8).filter (spritePixel (m.read (base + row)))).map (targetCell vx vy row)

/-- The target cells of an `n`-row sprite at `base`, in row-major order (R130 phase 1). -/
def spriteTargets (m : Memory) (base vx vy n : Nat) : List Nat := (List.range n).flatMap (rowTargets m base vx vy)

/-- The target cells of `DRW Vx, Vy, n` in a state. -/
def State.drawTargets (s : State) (x y : RegIdx) (n : BitVec 4) : List Nat :=
  spriteTargets s.mem s.i.toNat (s.reg x).toNat (s.reg y).toNat n.toNat

/-- The first target past the last framebuffer cell, in row-major order (R133 (b)). -/
def firstOutside (targets : List Nat) : Option Nat := targets.find? (fun k => decide (Config.fbCells ≤ k))

/-- `FB[k] <- FB[k] ^ 1` for each target (R130 phase 2). -/
def toggleCells (fb : FrameBits) (targets : List Nat) : FrameBits :=
  targets.foldl (fun f k => f ^^^ BitVec.twoPow 2048 k) fb

/-- The key test's index is no key (R144, D16; log 11): the whole register value counts, never masked. -/
def keyOutOfRange (k : Byte) : Bool := decide (Config.nKeys ≤ k.toNat)

/-- How `WKEY` recognises a press (R143). DESIGN CHOICE (the spec's own, D18; log 12), unsafe. -/
def keywaitTrigger : Config.KeyTrigger := .edge

/-- The newly pressed keys of a poll, from the sample before and the sample now (R142, R143). -/
def newKeys (t : Config.KeyTrigger) (before now : KeySet) : KeySet :=
  match t with
  | .edge => now &&& ~~~before
  | .level => now

/-- The key with the lowest index in a set, `none` for the empty set (R143). -/
def leastKey (ks : KeySet) : Option Nat := (List.range Config.nKeys).find? (fun k => ks.getLsbD k)

end Sys2Proof.Machine
end

