-- ==== Sys2Proof/Machine/Flags.lean ====
section
/-! DEFINITION. The one flag of the hardware, `V[0xF]` (10_state.md R22): the carry of `ADD` (42_alu.md R113) and the collision of
`DRW` (44_draw.md R134). Each writes the whole byte, 0x01 or 0x00. -/

namespace Sys2Proof.Machine

/-- The flag byte: 0x01 or 0x00 (R113, R130). -/
def flagByte (c : Bool) : Byte := if c then 0x01 else 0x00

/-- The carry of an unsigned 8-bit addition: the exact sum is above 255 (R113). -/
def carryOut (a b : Byte) : Bool := decide (255 < a.toNat + b.toNat)

/-- The collision of a draw: some target cell is already set when its turn comes (R130 phase 2, R134). -/
def collides (fb : FrameBits) : List Nat → Bool
  | [] => false
  | k :: ks => fb.getLsbD k || collides (fb ^^^ BitVec.twoPow 2048 k) ks

/-- `V[0xF] <- flag` (R22). -/
def State.setFlag (s : State) (c : Bool) : State := s.setReg flagReg (flagByte c)

end Sys2Proof.Machine
end

