-- ==== Sys2Proof/Machine/Alu.lean ====
section
/-! DEFINITION. Register and ALU instructions: LD, ADDI, AND, ADD, RND (42_alu.md R110 to R116). -/

namespace Sys2Proof.Machine

/-- `6xnn`, `LD Vx, nn` (R110). -/
def execLd (x : RegIdx) (nn : Byte) (s : State) : Result := .next (s.setReg x nn).advance

/-- `7xnn`, `ADDI Vx, nn` (R111): wraps, no flag. -/
def execAddi (x : RegIdx) (nn : Byte) (s : State) : Result := .next (s.setReg x (s.reg x + nn)).advance

/-- `8xy2`, `AND Vx, Vy` (R112): no flag. -/
def execAnd (x y : RegIdx) (s : State) : Result := .next (s.setReg x (s.reg x &&& s.reg y)).advance

/-- `8xy4`, `ADD Vx, Vy` (R113): both operands read first, the sum written, then the carry, so with `x = F` the carry stays
(D17; log 13). -/
def execAdd (x y : RegIdx) (s : State) : Result :=
  .next ((s.setReg x (s.reg x + s.reg y)).setFlag (carryOut (s.reg x) (s.reg y))).advance

/-- `Cxnn`, `RND Vx, nn` (R114): one draw of `RandomByte()`, masked. -/
def execRnd (x : RegIdx) (nn : Byte) (s : State) : Result :=
  .next (s.takeRandom.setReg x (nn &&& s.randomByteNow)).advance

end Sys2Proof.Machine
end

