-- ==== Sys2Proof/Machine/Control.lean ====
section
/-! DEFINITION. Control transfer: JP, SE, SNE (41_control.md R100 to R103). -/

namespace Sys2Proof.Machine

/-- `1nnn`, `JP nnn` (R100): any 12-bit target is accepted, odd ones too. -/
def execJp (nnn : BitVec 12) (s : State) : Result := .next (s.jump (nnn.setWidth 16))

/-- `3xnn`, `SE Vx, nn` (R101). -/
def execSe (x : RegIdx) (nn : Byte) (s : State) : Result := .next (s.skipIf (s.reg x == nn))

/-- `4xnn`, `SNE Vx, nn` (R102). -/
def execSne (x : RegIdx) (nn : Byte) (s : State) : Result := .next (s.skipIf (s.reg x != nn))

end Sys2Proof.Machine
end

