-- ==== Sys2Proof/Machine/Draw.lean ====
section
/-! DEFINITION. The sprite draw: DRW (44_draw.md R130 to R136). -/

namespace Sys2Proof.Machine

/-- Phase 2 of R130: toggle the targets, write the collision flag, set `fb_dirty`. -/
def State.applyDraw (s : State) (targets : List Nat) : State :=
  { s with fb := toggleCells s.fb targets, fbDirty := true }.setFlag (collides s.fb targets)

/-- `Dxyn`, `DRW Vx, Vy, n` (R130): the memory range first, then the framebuffer index of each set bit in row-major order, and
every check before any effect (R133, D11, D13, D14, D22; log 10, log 18). -/
def execDrw (x y : RegIdx) (n : BitVec 4) (s : State) : Result :=
  if s.blockOutOfRange n.toNat then .next (s.raise blockFault)
  else
    match firstOutside (s.drawTargets x y n) with
    | some k => .next (s.raise (.addressOutOfRange .fb k))
    | none => .next (s.applyDraw (s.drawTargets x y n)).advance

end Sys2Proof.Machine
end

