-- ==== Sys2Proof/Machine/Index.lean ====
section
/-! DEFINITION. Index register and memory instructions: LDI, LDF, BCD, LDM (43_index_memory.md R120 to R124). -/

namespace Sys2Proof.Machine

/-- `Annn`, `LDI nnn` (R120). -/
def execLdi (nnn : BitVec 12) (s : State) : Result := .next (s.setI (nnn.setWidth 16)).advance

/-- `Fx29`, `LDF Vx` (R121): the whole 8-bit value times five, exact in 16 bits. -/
def execLdf (x : RegIdx) (s : State) : Result :=
  .next (s.setI ((s.reg x).setWidth 16 * BitVec.ofNat 16 Config.glyphBytes)).advance

/-- `Fx33`, `BCD Vx` (R122): the range is checked before any write; no write protection (R59, D21; log 20). -/
def execBcd (x : RegIdx) (s : State) : Result :=
  if s.blockOutOfRange 3 then .next (s.raise blockFault)
  else .next (s.storeBytes s.i.toNat (decimalDigits (s.reg x))).advance

/-- `Fx65`, `LDM Vx` (R123): `V[0]` to `V[x]` from memory at `I`, the range checked before any register is written. -/
def execLdm (x : RegIdx) (s : State) : Result :=
  if s.blockOutOfRange (x.val + 1) then .next (s.raise blockFault)
  else .next { s with v := loadRegs s.mem s.i.toNat s.v (x.val + 1), pc := s.pc + 2 }

end Sys2Proof.Machine
end

