-- ==== Sys2Proof/Machine/Keypad.lean ====
section
/-! DEFINITION. Keypad instructions: SKP, SKNP, WKEY, and the poll of a key-wait (45_keypad.md R140 to R145). -/

namespace Sys2Proof.Machine

/-- Key `k` is held in the latch (R31, R140). -/
def State.keyHeld (s : State) (k : Byte) : Bool := s.keys.getLsbD k.toNat

/-- The fault of a key index above 15 (R144). -/
def keyFault (k : Byte) : FaultRecord := .addressOutOfRange .key k.toNat

/-- `Ex9E`, `SKP Vx` (R140). -/
def execSkp (x : RegIdx) (s : State) : Result :=
  if keyOutOfRange (s.reg x) then .next (s.raise (keyFault (s.reg x)))
  else .next (s.skipIf (s.keyHeld (s.reg x)))

/-- `ExA1`, `SKNP Vx` (R141). -/
def execSknp (x : RegIdx) (s : State) : Result :=
  if keyOutOfRange (s.reg x) then .next (s.raise (keyFault (s.reg x)))
  else .next (s.skipIf (!s.keyHeld (s.reg x)))

/-- `Fx0A`, `WKEY Vx` (R142): the cycle is suspended; `pc` and the tick wait for the poll that completes it. -/
def execWkey (x : RegIdx) (s : State) : Result := .next { s with status := .waitKey x }

/-- The poll's end when key `k` is newly pressed: `V[x] <- k`, the deferred advance and tick, `Running` (R142). -/
def State.completeWait (s : State) (x : RegIdx) (k : Nat) : State :=
  { (s.setReg x (BitVec.ofNat 8 k)).advance.timerTick with status := .running }

/-- `Poll(x)` (R142): the host's answer, a fresh sample, and the wait completes iff a key is newly pressed. -/
def State.poll (s : State) (x : RegIdx) : State :=
  if s.hostOpenNow then
    match leastKey (newKeys keywaitTrigger s.keys s.keySampleNow) with
    | some k => s.takeHostOpen.latchKeys.completeWait x k
    | none => s.takeHostOpen.latchKeys
  else { s.takeHostOpen with status := .stopped }

end Sys2Proof.Machine
end

