-- ==== Sys2Proof/Machine/Timer.lean ====
section
/-! DEFINITION. The timer instruction: LDST (46_timer.md R150). The tick is `State.timerTick` (R151). -/

namespace Sys2Proof.Machine

/-- `Fx18`, `LDST Vx` (R150): the tick of the same cycle acts on the new value (R195). -/
def execLdst (x : RegIdx) (s : State) : Result := .next (s.setSt (s.reg x)).advance

end Sys2Proof.Machine
end

