-- ==== Sys2Proof/Machine/Dispatch.lean ====
section
/-! DEFINITION. Dispatch (40_cycle.md R94): steps 3 and 4 of the cycle, one arm per instruction. -/

namespace Sys2Proof.Machine

/-- `Execute(ins)` and the advance of `pc` (R90 steps 3 and 4, R94, R95; log 22). -/
def exec (i : Instr) (s : State) : Host.Outcome State Fault Refusal :=
  match i with
  | .jp nnn => Sys2Proof.Machine.execJp nnn s
  | .se x nn => Sys2Proof.Machine.execSe x nn s
  | .sne x nn => Sys2Proof.Machine.execSne x nn s
  | .ld x nn => Sys2Proof.Machine.execLd x nn s
  | .addi x nn => Sys2Proof.Machine.execAddi x nn s
  | .and x y => Sys2Proof.Machine.execAnd x y s
  | .add x y => Sys2Proof.Machine.execAdd x y s
  | .ldi nnn => Sys2Proof.Machine.execLdi nnn s
  | .rnd x nn => Sys2Proof.Machine.execRnd x nn s
  | .drw x y n => Sys2Proof.Machine.execDrw x y n s
  | .skp x => Sys2Proof.Machine.execSkp x s
  | .sknp x => Sys2Proof.Machine.execSknp x s
  | .wkey x => Sys2Proof.Machine.execWkey x s
  | .ldst x => Sys2Proof.Machine.execLdst x s
  | .ldf x => Sys2Proof.Machine.execLdf x s
  | .bcd x => Sys2Proof.Machine.execBcd x s
  | .ldm x => Sys2Proof.Machine.execLdm x s

end Sys2Proof.Machine
end

