-- ==== Sys2Proof/Machine/Cycle.lean ====
section
/-! DEFINITION. The engine cycle around the instruction (40_cycle.md R90 to R98). -/

namespace Sys2Proof.Machine

/-- The state that the fetch and the instruction of a cycle see when the host is open: both boundary actions are done (R90 steps
0a and 0b, R91). -/
def State.cycleStart (s : State) : State := s.takeHostOpen.latchKeys

/-- Step 5 of the cycle (R96): a cycle that completed (the status is still `Running`) ticks once; one that raised or
that a key-wait suspended does not. -/
def State.endCycle (s : State) : State := if s.status = .running then s.timerTick else s

/-- Step 5 applied to what the instruction answered. -/
def endCycleOf : Result → Result
  | .next s => .next s.endCycle
  | .fault f => .fault f
  | .refused r => .refused r

/-- Steps 2 to 5 on the fetched word (R90): decode, then dispatch; an unmatched word raises (R94, R162). -/
def State.runWord (s : State) (op : Word) : Result :=
  match decode op with
  | .unsupported op => .next (s.raise (.unsupportedInstruction op))
  | .instr i => endCycleOf (exec i s)

/-- Steps 1 to 5: the fetch may raise (R92). -/
def State.fetchAndRun (s : State) : Result :=
  match s.fetch with
  | .error f => .next (s.raise f)
  | .ok op => s.runWord op

/-- `Cycle()` (R90): the host's answer and the key sample come first (R91). -/
def State.cycle (s : State) : Result :=
  if s.hostOpenNow then s.cycleStart.fetchAndRun else .next { s.takeHostOpen with status := .stopped }

end Sys2Proof.Machine
end

