-- ==== Sys2Proof/Machine/Loader.lean ====
section
/-! DEFINITION. The Loader (20_memory.md R64), which runs once between reset and the first cycle (70_reset_and_hazards.md R190). -/

namespace Sys2Proof.Machine

/-- `load(machine, bytes)` (R64): the image verbatim at `0x200`, or `ImageTooLarge` with nothing copied (R163, D28; log 17). -/
def State.load (s : State) (image : List Byte) : State :=
  if imageWf image then s.storeBytes Config.progBase image else s.raise (.imageTooLarge image.length)

/-- Reset, then load (R190): the state in which the run of an image starts. -/
def State.boot (image : List Byte) : State := State.reset.load image

end Sys2Proof.Machine
end

