-- ==== Sys2Proof/Machine/Step.lean ====
section
/-! DEFINITION. The step of the machine (40_cycle.md R98), and the state in which a given instruction is fetched next. -/

namespace Sys2Proof.Machine

/-- `Step()` (R98): a cycle, a poll, or no step at all. What the host may do between two steps comes first (R36). -/
def step (s : State) : Host.Outcome State Fault Refusal :=
  match s.status with
  | .running => s.betweenCycles.cycle
  | .waitKey x => .next (s.betweenCycles.poll x)
  | .halted => .fault .halted
  | .stopped => .fault .stopped

/-- The address `withFetchWord` uses: `pc` where a fetch from it can succeed (R92), else the entry point. -/
def State.fetchBase (s : State) : Word := if s.pc.toNat ≤ 4094 then s.pc else 0x200

/-- `s` with the word stored where `step` fetches next, high byte at the lower address (R55), a running engine, and the next
answer of `HostOpen()` true, so that the next step is the cycle of that word (log 17). -/
def State.withFetchWord (s : State) (nbits w : Nat) : State :=
  { s with
    mem := s.mem.store s.fetchBase.toNat [highByte (tableWord nbits w), lowByte (tableWord nbits w)]
    pc := s.fetchBase
    status := .running
    fault := none
    openDraws := { s.openDraws with pending := true :: s.openDraws.pending.tail } }

end Sys2Proof.Machine
end

