-- ==== Sys2Proof/Safety.lean ====
section
/-! DEFINITION. The terms the statements use: what a transition leaves alone, what a sprite covers, which runs are live, and the
invariant of 10_state.md R41. -/

namespace Sys2Proof.Machine

/-- The elements of the state (R20), down to one register, one memory cell, one pixel, one stack entry; and the model's own
fields (log 1, log 14). -/
inductive Elem where
  | v (x : RegIdx)
  | i
  | pc
  | stack (k : Fin 16)
  | sp
  | dt
  | st
  | mem (a : Nat)
  | fb (k : Nat)
  | fbDirty
  | keys
  | status
  | fault
  | soundExpire
  | openDraws
  | frameDraws
  | keyDraws
  | randDraws
  deriving DecidableEq, Repr

/-- The element holds the same value in both states; memory and framebuffer through the read of one cell. -/
def Elem.Same : Elem → State → State → Prop
  | .v x, s, t => t.reg x = s.reg x
  | .i, s, t => t.i = s.i
  | .pc, s, t => t.pc = s.pc
  | .stack k, s, t => t.stack[k] = s.stack[k]
  | .sp, s, t => t.sp = s.sp
  | .dt, s, t => t.dt = s.dt
  | .st, s, t => t.st = s.st
  | .mem a, s, t => t.mem.read a = s.mem.read a
  | .fb k, s, t => t.fb.getLsbD k = s.fb.getLsbD k
  | .fbDirty, s, t => t.fbDirty = s.fbDirty
  | .keys, s, t => t.keys = s.keys
  | .status, s, t => t.status = s.status
  | .fault, s, t => t.fault = s.fault
  | .soundExpire, s, t => t.soundExpire = s.soundExpire
  | .openDraws, s, t => t.openDraws = s.openDraws
  | .frameDraws, s, t => t.frameDraws = s.frameDraws
  | .keyDraws, s, t => t.keyDraws = s.keyDraws
  | .randDraws, s, t => t.randDraws = s.randDraws

/-- The frame: from `s` to `t` every element outside `touched` is unchanged. -/
def ChangesOnly (touched : Elem → Prop) (s t : State) : Prop := ∀ e, ¬ touched e → e.Same s t

/-- What the boundary of a step may change before the instruction runs: the latch, the host's read of the framebuffer, the end of
the `sound_expire` pulse, and the draws (R36, R91; log 15, log 16). -/
def BoundaryElem (e : Elem) : Prop :=
  e = .keys ∨ e = .fbDirty ∨ e = .soundExpire ∨ e = .openDraws ∨ e = .frameDraws ∨ e = .keyDraws

/-- The word of the instruction has the fixed bits of its row (30_encoding.md R75). -/
def HasPattern (ins : Instr) (mask pattern : Word) : Prop := encode ins &&& mask = pattern

/-- The two bytes at `pc` (R92) read as the instruction `ins`. -/
def FetchesInstr (s : State) (ins : Instr) : Prop :=
  s.pc.toNat ≤ 4094 ∧ decodeBytes [s.mem.read s.pc.toNat, s.mem.read (s.pc.toNat + 1)] = .instr ins []

/-- The fault is recorded and the engine is halted (R164). After a fault no statement reads anything else (R165). -/
def HaltedWith (t : State) (f : FaultRecord) : Prop := t.status = .halted ∧ t.fault = some f

/-- The sprite of `DRW Vx, Vy, n` has a set bit at row `row` and column offset `col` (R131). -/
def SpriteBit (s : State) (n : BitVec 4) (row col : Nat) : Prop :=
  row < n.toNat ∧ col < 8 ∧ (s.mem.read (s.i.toNat + row)).getLsbD (7 - col) = true

/-- The cell of the sprite bit at `row`, `col`: `V[x] + col + (V[y] + row) * 64` (R132). -/
def spriteCell (s : State) (x y : RegIdx) (row col : Nat) : Nat :=
  (s.reg x).toNat + col + ((s.reg y).toNat + row) * 64

/-- Cell `k` is a target of `DRW Vx, Vy, n` (R130 phase 1). -/
def Covers (s : State) (x y : RegIdx) (n : BitVec 4) (k : Nat) : Prop :=
  ∃ row col, SpriteBit s n row col ∧ k = spriteCell s x y row col

/-- The sprite rows of `DRW` lie in memory (R133 (a)). -/
def RowsInMemory (s : State) (n : BitVec 4) : Prop := n.toNat = 0 ∨ s.i.toNat + n.toNat - 1 ≤ 4095

/-- Key `k` is newly pressed at a poll: in the sample now and not in the latch before (R143, the `edge` reading). -/
def NewlyPressed (before now : KeySet) (k : Nat) : Prop := now.getLsbD k = true ∧ before.getLsbD k = false

/-- The run goes on: a cycle or a poll is next (R32). -/
def State.Live (s : State) : Prop := s.status = .running ∨ ∃ x, s.status = .waitKey x

/-- The invariant of R41 with the canonical form of memory; what it says of a halted machine is only that a fault is recorded. -/
structure State.Inv (s : State) : Prop where
  memCanonical : s.mem.wf = true
  indexInMemory : s.Live → s.i.toNat ≤ 4095
  pcRunning : s.status = .running → s.pc.toNat ≤ 4098
  pcWaiting : ∀ x, s.status = .waitKey x → s.pc.toNat ≤ 4094
  delayZero : s.Live → s.dt = 0
  soundBelow255 : s.Live → s.st.toNat ≤ 254
  stackInert : s.Live → s.stack = Vector.replicate 16 0 ∧ s.sp = 0
  noFault : s.Live ∨ s.status = .stopped → s.fault = none
  faultRecorded : s.status = .halted → s.fault.isSome = true

end Sys2Proof.Machine
end

