-- ==== Sys2Proof/Certificates/Slice0/Obligations.lean ====
section
/-! DEFINITION. The statements about the machine, from the numbered rules of the spec. After a fault a statement reads `status` and
`fault` only (60_exceptions.md R165, 93_implementation_defined.md U12), and none depends on glyph bytes 5 to 79 (G1). In states no
run reaches, near `pc` = 65535, the sums `pc + 2` and `pc + 4` wrap at 16 bits (log 21). -/

open Sys2Proof Sys2Proof.Machine

/-! ### Encoding -/

/-- R75, R80: no operand bit of any encoding is lost. -/
def Obligations.DecodeInvertsEncode : Prop := ∀ ins : Instr, decode (encode ins) = .instr ins

/-- R79: "no supported instruction ignores any bit of its word". -/
def Obligations.EncodeInvertsDecode : Prop := ∀ (op : Word) (ins : Instr), decode op = .instr ins → encode ins = op

/-- R75, R77: a word decodes to an instruction of a row exactly when it selects that row by mask and match, and to `Unsupported`
exactly when it selects none. -/
def Obligations.DecodeFollowsOpcodeMap : Prop :=
  ∀ op : Word,
    (∀ r ∈ opcodeTable, op &&& r.mask = r.pattern ↔ ∃ ins, decode op = .instr ins ∧ ins.mnemonic = r.mnemonic) ∧
    ((∀ r ∈ opcodeTable, op &&& r.mask ≠ r.pattern) ↔ decode op = .unsupported op)

/-- R82 and T1: every supported word listed there, at least one of every row of R75, decodes to the instruction listed; so do its
bytes in memory, high byte first, where T1 lists them; every word listed as `Unsupported` is that; and `DRW V1, V2, 5` lies in
memory as `D1 25`. -/
def Obligations.WorkedDecodes : Prop :=
  (decode 0x1204 = .instr (.jp 0x204) ∧ decode 0x3A42 = .instr (.se 0xA 0x42) ∧ decode 0x4001 = .instr (.sne 0 0x01) ∧
  decode 0x63FE = .instr (.ld 3 0xFE) ∧ decode 0x70FF = .instr (.addi 0 0xFF) ∧ decode 0x8312 = .instr (.and 3 1) ∧
  decode 0x8324 = .instr (.add 3 2) ∧ decode 0x8AB2 = .instr (.and 0xA 0xB) ∧ decode 0x8AB4 = .instr (.add 0xA 0xB) ∧
  decode 0xA300 = .instr (.ldi 0x300) ∧ decode 0xC10F = .instr (.rnd 1 0x0F) ∧ decode 0xD125 = .instr (.drw 1 2 5) ∧
  decode 0xE09E = .instr (.skp 0) ∧ decode 0xE19E = .instr (.skp 1) ∧ decode 0xE1A1 = .instr (.sknp 1) ∧
  decode 0xF10A = .instr (.wkey 1) ∧ decode 0xF318 = .instr (.ldst 3) ∧ decode 0xF029 = .instr (.ldf 0) ∧
  decode 0xF033 = .instr (.bcd 0) ∧ decode 0xF265 = .instr (.ldm 2)) ∧
  (decodeBytes [0x12, 0x04] = .instr (.jp 0x204) [] ∧ decodeBytes [0x3A, 0x42] = .instr (.se 0xA 0x42) [] ∧
  decodeBytes [0x40, 0x01] = .instr (.sne 0 0x01) [] ∧ decodeBytes [0x63, 0xFE] = .instr (.ld 3 0xFE) [] ∧
  decodeBytes [0x70, 0xFF] = .instr (.addi 0 0xFF) [] ∧ decodeBytes [0x83, 0x12] = .instr (.and 3 1) [] ∧
  decodeBytes [0x83, 0x24] = .instr (.add 3 2) [] ∧ decodeBytes [0xA3, 0x00] = .instr (.ldi 0x300) [] ∧
  decodeBytes [0xC1, 0x0F] = .instr (.rnd 1 0x0F) [] ∧ decodeBytes [0xD1, 0x25] = .instr (.drw 1 2 5) [] ∧
  decodeBytes [0xE0, 0x9E] = .instr (.skp 0) [] ∧ decodeBytes [0xE1, 0xA1] = .instr (.sknp 1) [] ∧
  decodeBytes [0xF1, 0x0A] = .instr (.wkey 1) [] ∧ decodeBytes [0xF3, 0x18] = .instr (.ldst 3) [] ∧
  decodeBytes [0xF0, 0x29] = .instr (.ldf 0) [] ∧ decodeBytes [0xF0, 0x33] = .instr (.bcd 0) [] ∧
  decodeBytes [0xF2, 0x65] = .instr (.ldm 2) []) ∧
  (decode 0x0000 = .unsupported 0x0000 ∧ decode 0x00E0 = .unsupported 0x00E0 ∧ decode 0x00EE = .unsupported 0x00EE ∧
  decode 0x0123 = .unsupported 0x0123 ∧ decode 0x2300 = .unsupported 0x2300 ∧ decode 0x5120 = .unsupported 0x5120 ∧
  decode 0x9120 = .unsupported 0x9120 ∧ decode 0xB300 = .unsupported 0xB300 ∧ decode 0x8310 = .unsupported 0x8310 ∧
  decode 0x8311 = .unsupported 0x8311 ∧ decode 0x8313 = .unsupported 0x8313 ∧ decode 0x8315 = .unsupported 0x8315 ∧
  decode 0x8316 = .unsupported 0x8316 ∧ decode 0x8317 = .unsupported 0x8317 ∧ decode 0x831E = .unsupported 0x831E ∧
  decode 0x8318 = .unsupported 0x8318 ∧ decode 0x8319 = .unsupported 0x8319 ∧ decode 0x831A = .unsupported 0x831A ∧
  decode 0x831F = .unsupported 0x831F ∧ decode 0x8AB0 = .unsupported 0x8AB0 ∧ decode 0x8AB8 = .unsupported 0x8AB8 ∧
  decode 0x8ABF = .unsupported 0x8ABF ∧ decode 0xE09F = .unsupported 0xE09F ∧ decode 0xE0A0 = .unsupported 0xE0A0 ∧
  decode 0xE000 = .unsupported 0xE000 ∧ decode 0xF015 = .unsupported 0xF015 ∧ decode 0xF01E = .unsupported 0xF01E ∧
  decode 0xF055 = .unsupported 0xF055 ∧ decode 0xF007 = .unsupported 0xF007 ∧ decode 0xF000 = .unsupported 0xF000 ∧
  decode 0xF066 = .unsupported 0xF066 ∧ decode 0xF075 = .unsupported 0xF075 ∧ decode 0xF255 = .unsupported 0xF255 ∧
  decode 0xF207 = .unsupported 0xF207) ∧
  encodeBytes (.drw 1 2 5) = [0xD1, 0x25]

/-- R71, R72, R80: the operands stand at `x = op[11:8]`, `y = op[7:4]`, `n = op[3:0]`, `nn = op[7:0]`, `nnn = op[11:0]`, whichever of
the five formats the row has, both in a word the decoder reads and in a word the encoder writes. -/
def Obligations.OperandsStandInTheirFields : Prop :=
  ∀ (op : Word) (ins : Instr), decode op = .instr ins ∨ op = encode ins →
    match ins with
    | .jp nnn | .ldi nnn => nnn.toNat = op.toNat % 4096
    | .se x nn | .sne x nn | .ld x nn | .addi x nn | .rnd x nn =>
      x.val = op.toNat / 256 % 16 ∧ nn.toNat = op.toNat % 256
    | .and x y | .add x y => x.val = op.toNat / 256 % 16 ∧ y.val = op.toNat / 16 % 16
    | .drw x y n => x.val = op.toNat / 256 % 16 ∧ y.val = op.toNat / 16 % 16 ∧ n.toNat = op.toNat % 16
    | .skp x | .sknp x | .wkey x | .ldst x | .ldf x | .bcd x | .ldm x => x.val = op.toNat / 256 % 16

/-! ### Reset and the Loader -/

/-- R40, R191: the values the source states, `pc` = 0x200 and the glyph of digit 0. That reset has status `Running` and an empty
`fault` is no value of the source: it is the model's choice, the spec's decision D10 (log 7). -/
def Obligations.ResetEntersAtProgramStart : Prop :=
  State.reset.pc = 0x200 ∧ State.reset.status = .running ∧ State.reset.fault = none ∧
  State.reset.mem.read 0 = 0xF0 ∧ State.reset.mem.read 1 = 0x90 ∧ State.reset.mem.read 2 = 0x90 ∧
  State.reset.mem.read 3 = 0x90 ∧ State.reset.mem.read 4 = 0xF0

/-- The reset values the source does not state (D1 to D6, D8): the model's choice, log 2 and log 5. -/
def Obligations.ResetHoldsChosenValues : Prop :=
  (∀ x, State.reset.reg x = 0) ∧ State.reset.i = 0 ∧ State.reset.dt = 0 ∧ State.reset.st = 0 ∧
  (∀ k : Fin 16, State.reset.stack[k] = 0) ∧ State.reset.sp = 0 ∧ (∀ k, State.reset.fb.getLsbD k = false) ∧
  State.reset.fbDirty = false ∧ State.reset.keys = 0 ∧ (∀ a, 80 ≤ a → State.reset.mem.read a = 0)

/-- R64: the image is copied verbatim to 0x200, and nothing else changes. -/
def Obligations.LoaderCopiesImage : Prop :=
  ∀ (s : State) (image : List Byte), image.length ≤ 3584 →
    (∀ k (h : k < image.length), (s.load image).mem.read (0x200 + k) = image[k]) ∧
    ChangesOnly (fun e => ∃ k, k < image.length ∧ e = .mem (0x200 + k)) s (s.load image)

/-- R163: a longer image is `ImageTooLarge`, and no cycle runs (R64, D28; log 17). That the record is the length is D12 (log 9). -/
def Obligations.LoaderRejectsLongImage : Prop :=
  ∀ (s : State) (image : List Byte), 3584 < image.length →
    HaltedWith (s.load image) (.imageTooLarge image.length) ∧ step (s.load image) = .fault .halted

/-! ### Memory -/

/-- Memory is plain data: two canonical memories that read alike are the same list. -/
def Obligations.CanonicalMemoriesEqual : Prop :=
  ∀ m m' : Memory, m.wf = true → m'.wf = true → (∀ a, m.read a = m'.read a) → m = m'

/-- R55: the fetch is big-endian, `op = (mem[pc] << 8) | mem[pc + 1]`, at any address `0..4094` (R57). -/
def Obligations.FetchIsBigEndian : Prop :=
  ∀ s : State, s.pc.toNat ≤ 4094 →
    ∃ op, s.fetch = .ok op ∧
      op = ((s.mem.read s.pc.toNat).setWidth 16 <<< 8) ||| (s.mem.read (s.pc.toNat + 1)).setWidth 16

/-- R62: the digits a BCD stores are what a later fetch from `I` sees. The digit formulas in the conclusion are the spec's inference
D27 (DEDUCED, log 19), and that a store at `I` below 0x050, into the glyph area, takes place is the choice D21 (log 20, unsafe). The
ones digit is in BcdStoresDigits. -/
def Obligations.StoredDigitsAreFetched : Prop :=
  ∀ (x : RegIdx) (s t u : State), s.i.toNat ≤ 4093 → exec (.bcd x) s = .next t → u.mem = t.mem → u.pc = s.i →
    ∃ op, u.fetch = .ok op ∧ op.toNat = 256 * ((s.reg x).toNat / 100) + (s.reg x).toNat / 10 % 10

/-! ### Control transfer -/

/-- R100. -/
def Obligations.JpSetsPcToTarget : Prop :=
  ∀ (nnn : BitVec 12) (s : State), HasPattern (.jp nnn) 0xF000 0x1000 ∧
    ∃ t, exec (.jp nnn) s = .next t ∧ t.pc.toNat = nnn.toNat ∧ ChangesOnly (fun e => e = .pc) s t

/-- R101: "program counter advances by 4 (not 2) exactly when `V[x]==nn`; by 2 otherwise". -/
def Obligations.SeSkipsOnEqual : Prop :=
  ∀ (x : RegIdx) (nn : Byte) (s : State), HasPattern (.se x nn) 0xF000 0x3000 ∧
    ∃ t, exec (.se x nn) s = .next t ∧ t.pc = (if s.reg x = nn then s.pc + 4 else s.pc + 2) ∧
      ChangesOnly (fun e => e = .pc) s t

/-- R102: the complement of SE on the same state. -/
def Obligations.SneSkipsOnUnequal : Prop :=
  ∀ (x : RegIdx) (nn : Byte) (s : State), HasPattern (.sne x nn) 0xF000 0x4000 ∧
    ∃ t, exec (.sne x nn) s = .next t ∧ t.pc = (if s.reg x ≠ nn then s.pc + 4 else s.pc + 2) ∧
      ChangesOnly (fun e => e = .pc) s t ∧ ∀ u, exec (.se x nn) s = .next u → u.pc ≠ t.pc

/-- R103, R95, of `exec`: the values `pc` can take; up to the last fetchable address every sum is exact. A fault is not a completion
(R164). WKEY leaves `pc` in `exec`; its `pc + 2` is in the poll that completes it (log 22; D19, log 15): WkeySuspendsThenStoresKey. -/
def Obligations.PcTakesOnlyTheseValues : Prop :=
  ∀ (ins : Instr) (s t : State), s.status = .running → s.pc.toNat ≤ 4094 → exec ins s = .next t → t.status ≠ .halted →
    match ins with
    | .jp nnn => t.pc.toNat = nnn.toNat
    | .se _ _ | .sne _ _ | .skp _ | .sknp _ => t.pc.toNat = s.pc.toNat + 2 ∨ t.pc.toNat = s.pc.toNat + 4
    | .wkey _ => t.pc = s.pc
    | _ => t.pc.toNat = s.pc.toNat + 2

/-! ### Registers and ALU -/

/-- R110. -/
def Obligations.LdLoadsImmediate : Prop :=
  ∀ (x : RegIdx) (nn : Byte) (s : State), HasPattern (.ld x nn) 0xF000 0x6000 ∧
    ∃ t, exec (.ld x nn) s = .next t ∧ t.reg x = nn ∧ t.pc = s.pc + 2 ∧
      ChangesOnly (fun e => e = .v x ∨ e = .pc) s t

/-- R111: wraps modulo 256, and `V[F]` is untouched unless `x = F`. -/
def Obligations.AddiWrapsWithoutFlag : Prop :=
  ∀ (x : RegIdx) (nn : Byte) (s : State), HasPattern (.addi x nn) 0xF000 0x7000 ∧
    ∃ t, exec (.addi x nn) s = .next t ∧ (t.reg x).toNat = ((s.reg x).toNat + nn.toNat) % 256 ∧ t.pc = s.pc + 2 ∧
      ChangesOnly (fun e => e = .v x ∨ e = .pc) s t

/-- R112: bit by bit, no flag. -/
def Obligations.AndIsBitwise : Prop :=
  ∀ (x y : RegIdx) (s : State), HasPattern (.and x y) 0xF00F 0x8002 ∧
    ∃ t, exec (.and x y) s = .next t ∧
      (∀ b, (t.reg x).getLsbD b = ((s.reg x).getLsbD b && (s.reg y).getLsbD b)) ∧ t.pc = s.pc + 2 ∧
      ChangesOnly (fun e => e = .v x ∨ e = .pc) s t

/-- R113: the sum modulo 256 and the carry, the whole byte 1 or 0. With `x = F` the carry is what stays: the spec's decision D17,
log 13. -/
def Obligations.AddStoresSumAndCarry : Prop :=
  ∀ (x y : RegIdx) (s : State), HasPattern (.add x y) 0xF00F 0x8004 ∧
    ∃ t, exec (.add x y) s = .next t ∧
      (x ≠ flagReg → (t.reg x).toNat = ((s.reg x).toNat + (s.reg y).toNat) % 256) ∧
      t.reg flagReg = (if (s.reg x).toNat + (s.reg y).toNat > 255 then 1 else 0) ∧ t.pc = s.pc + 2 ∧
      ChangesOnly (fun e => e = .v x ∨ e = .v flagReg ∨ e = .pc) s t

/-- R114: the draw masked by `nn`, one draw taken; the draw is whatever the environment answers. -/
def Obligations.RndMasksOneDraw : Prop :=
  ∀ (x : RegIdx) (nn : Byte) (s : State), HasPattern (.rnd x nn) 0xF000 0xC000 ∧
    (∃ t, exec (.rnd x nn) s = .next t ∧ t.reg x = nn &&& s.randomByteNow ∧ t.reg x &&& ~~~nn = 0 ∧
      t.randDraws = s.randDraws.rest ∧ t.pc = s.pc + 2 ∧
      ChangesOnly (fun e => e = .v x ∨ e = .randDraws ∨ e = .pc) s t) ∧
    ∀ v : Byte, v &&& ~~~nn = 0 → ∃ d t, exec (.rnd x nn) { s with randDraws := d } = .next t ∧ t.reg x = v

/-! ### Index register and memory -/

/-- R120. -/
def Obligations.LdiLoadsIndex : Prop :=
  ∀ (nnn : BitVec 12) (s : State), HasPattern (.ldi nnn) 0xF000 0xA000 ∧
    ∃ t, exec (.ldi nnn) s = .next t ∧ t.i.toNat = nnn.toNat ∧ t.pc = s.pc + 2 ∧
      ChangesOnly (fun e => e = .i ∨ e = .pc) s t

/-- R121: exact, the whole 8-bit value. -/
def Obligations.LdfPointsAtGlyph : Prop :=
  ∀ (x : RegIdx) (s : State), HasPattern (.ldf x) 0xF0FF 0xF029 ∧
    ∃ t, exec (.ldf x) s = .next t ∧ t.i.toNat = (s.reg x).toNat * 5 ∧ t.pc = s.pc + 2 ∧
      ChangesOnly (fun e => e = .i ∨ e = .pc) s t

/-- R122 with the digit formulas of D27 (DEDUCED, log 19): the three digits at `I`, `I + 1`, `I + 2`, every other byte as before. That
a store at `I` below 0x050, into the glyph area, takes place is the choice D21 (log 20, unsafe). -/
def Obligations.BcdStoresDigits : Prop :=
  ∀ (x : RegIdx) (s : State), HasPattern (.bcd x) 0xF0FF 0xF033 ∧ (s.i.toNat + 2 ≤ 4095 →
    ∃ t, exec (.bcd x) s = .next t ∧
      (t.mem.read s.i.toNat).toNat = (s.reg x).toNat / 100 ∧
      (t.mem.read (s.i.toNat + 1)).toNat = (s.reg x).toNat / 10 % 10 ∧
      (t.mem.read (s.i.toNat + 2)).toNat = (s.reg x).toNat % 10 ∧ t.pc = s.pc + 2 ∧
      ChangesOnly (fun e => e = .pc ∨ e = .mem s.i.toNat ∨ e = .mem (s.i.toNat + 1) ∨ e = .mem (s.i.toNat + 2)) s t)

/-- R123: `V[0]` to `V[x]` from memory, `I` and memory unchanged; past the last cell it raises. The 4096 that the fault records is the
spec's decision D12 (log 9, unsafe for a claim that reads the diagnostic; log 21 for `I` above 4095). -/
def Obligations.LdmLoadsRegisterBlock : Prop :=
  ∀ (x : RegIdx) (s : State), HasPattern (.ldm x) 0xF0FF 0xF065 ∧
    (s.i.toNat + x.val ≤ 4095 →
      ∃ t, exec (.ldm x) s = .next t ∧ (∀ r : RegIdx, r.val ≤ x.val → t.reg r = s.mem.read (s.i.toNat + r.val)) ∧
        t.pc = s.pc + 2 ∧ ChangesOnly (fun e => e = .pc ∨ ∃ r : RegIdx, r.val ≤ x.val ∧ e = .v r) s t) ∧
    (4095 < s.i.toNat + x.val →
      ∃ t, exec (.ldm x) s = .next t ∧ HaltedWith t (.addressOutOfRange .mem 4096))

/-- R161: the memory checks of BCD and DRW. The draw's check is the spec's decision D13 (log 10), and that it comes before the
framebuffer's is D22 (log 18); the 4096 that both faults record is D12 (log 9, unsafe for a claim that reads the diagnostic; log 21
for `I` above 4095). -/
def Obligations.BlockPastMemoryHalts : Prop :=
  (∀ (x : RegIdx) (s : State), 4095 < s.i.toNat + 2 →
    ∃ t, exec (.bcd x) s = .next t ∧ HaltedWith t (.addressOutOfRange .mem 4096)) ∧
  (∀ (x y : RegIdx) (n : BitVec 4) (s : State), 1 ≤ n.toNat → 4095 < s.i.toNat + n.toNat - 1 →
    ∃ t, exec (.drw x y n) s = .next t ∧ HaltedWith t (.addressOutOfRange .mem 4096))

/-! ### Draw -/

/-- R130 to R135: with its rows in memory and every target a cell, the draw flips exactly its targets, judges the collision
against the framebuffer before, and sets `fb_dirty`. The exact index is the spec's decision D15, log 10. -/
def Obligations.DrwXorsSprite : Prop :=
  ∀ (x y : RegIdx) (n : BitVec 4) (s : State), HasPattern (.drw x y n) 0xF000 0xD000 ∧
    (RowsInMemory s n → (∀ k, Covers s x y n k → k ≤ 2047) →
      ∃ t, exec (.drw x y n) s = .next t ∧
        (∀ k, Covers s x y n k → t.fb.getLsbD k = !s.fb.getLsbD k) ∧
        ((∃ k, Covers s x y n k ∧ s.fb.getLsbD k = true) → t.reg flagReg = 1) ∧
        ((¬ ∃ k, Covers s x y n k ∧ s.fb.getLsbD k = true) → t.reg flagReg = 0) ∧
        t.fbDirty = true ∧ t.pc = s.pc + 2 ∧
        ChangesOnly (fun e => (∃ k, Covers s x y n k ∧ e = .fb k) ∨ e = .v flagReg ∨ e = .fbDirty ∨ e = .pc) s t)

/-- R133 (b): a set bit past cell 2047 raises, and the index recorded is the first in row-major order: the fault is D14 and the
exact index D15 (log 10), the order D22 (log 18), the record D12 (log 9). -/
def Obligations.DrwPixelOutsideHalts : Prop :=
  ∀ (x y : RegIdx) (n : BitVec 4) (s : State) (row col : Nat), RowsInMemory s n → SpriteBit s n row col →
    2047 < spriteCell s x y row col →
    (∀ row' col', SpriteBit s n row' col' → (row' < row ∨ row' = row ∧ col' < col) → spriteCell s x y row' col' ≤ 2047) →
    ∃ t, exec (.drw x y n) s = .next t ∧ HaltedWith t (.addressOutOfRange .fb (spriteCell s x y row col))

/-- R136 (a): two identical draws restore the framebuffer exactly. The second reports a collision iff some target cell was clear
before the first, by R130 and R134; on an empty framebuffer that is: iff the sprite has a set bit (log 23).
Which cells the sprite covers where `V[x]` is 249 or more is the exact index of D15 (log 10, unsafe there). -/
def Obligations.DrwTwiceRestoresFramebuffer : Prop :=
  ∀ (x y : RegIdx) (n : BitVec 4) (s : State), x ≠ flagReg → y ≠ flagReg → RowsInMemory s n →
    (∀ k, Covers s x y n k → k ≤ 2047) →
    ∃ t u, exec (.drw x y n) s = .next t ∧ exec (.drw x y n) t = .next u ∧ u.fb = s.fb ∧
      (u.reg flagReg = 1 ↔ ∃ k, Covers s x y n k ∧ s.fb.getLsbD k = false) ∧
      (s.fb = 0 → (u.reg flagReg = 1 ↔ ∃ k, Covers s x y n k))

/-- R136 (a) word for word on every framebuffer: "the second sets `V[F] = 1` iff the sprite has a set bit". Expected to FAIL: where
every target was set, the first draw clears them all and the second meets none (log 23). The exact index is D15, log 10. -/
def Obligations.SecondDrawAlwaysCollides : Prop :=
  ∀ (x y : RegIdx) (n : BitVec 4) (s t u : State), s.Inv → s.status = .running → x ≠ flagReg → y ≠ flagReg →
    RowsInMemory s n → (∀ k, Covers s x y n k → k ≤ 2047) →
    exec (.drw x y n) s = .next t → exec (.drw x y n) t = .next u →
    (u.reg flagReg = 1 ↔ ∃ k, Covers s x y n k)

/-! ### Keypad -/

/-- R140, R141: the level of key `V[x]` in the latch decides, and SKP and SKNP are complements. -/
def Obligations.KeySkipsFollowTheLatch : Prop :=
  ∀ (x : RegIdx) (s : State), HasPattern (.skp x) 0xF0FF 0xE09E ∧ HasPattern (.sknp x) 0xF0FF 0xE0A1 ∧
    ((s.reg x).toNat ≤ 15 →
      ∃ t u, exec (.skp x) s = .next t ∧ exec (.sknp x) s = .next u ∧
        t.pc = (if s.keys.getLsbD (s.reg x).toNat = true then s.pc + 4 else s.pc + 2) ∧
        u.pc = (if s.keys.getLsbD (s.reg x).toNat = true then s.pc + 2 else s.pc + 4) ∧
        ChangesOnly (fun e => e = .pc) s t ∧ ChangesOnly (fun e => e = .pc) s u)

/-- R144: an index above 15 raises, never masked (D16, log 11), and the record is the whole value of `V[x]` (D12, log 9). -/
def Obligations.KeyIndexOutsideHalts : Prop :=
  ∀ (x : RegIdx) (s : State), 15 < (s.reg x).toNat →
    (∃ t, exec (.skp x) s = .next t ∧ HaltedWith t (.addressOutOfRange .key (s.reg x).toNat)) ∧
    (∃ t, exec (.sknp x) s = .next t ∧ HaltedWith t (.addressOutOfRange .key (s.reg x).toNat))

/-- R142: WKEY suspends the engine, and the first poll that sees a newly pressed key completes it: the least such key in `V[x]`,
the deferred advance and one tick. The `edge` reading, the lowest index and the polling are the spec's decisions (D18, D19,
log 12, log 15). -/
def Obligations.WkeySuspendsThenStoresKey : Prop :=
  ∀ (x : RegIdx) (s : State), HasPattern (.wkey x) 0xF0FF 0xF00A ∧
    (∃ t, exec (.wkey x) s = .next t ∧ t.status = .waitKey x ∧ ChangesOnly (fun e => e = .status) s t) ∧
    (∀ k, k < 16 → s.status = .waitKey x → s.hostOpenNow = true → NewlyPressed s.keys s.keySampleNow k →
      (∀ j, j < k → ¬ NewlyPressed s.keys s.keySampleNow j) →
      ∃ t, step s = .next t ∧ (t.reg x).toNat = k ∧ t.pc = s.pc + 2 ∧ t.status = .running ∧ t.keys = s.keySampleNow ∧
        t.dt.toNat = s.dt.toNat - 1 ∧ t.st.toNat = s.st.toNat - 1 ∧
        ChangesOnly (fun e => BoundaryElem e ∨ e = .v x ∨ e = .pc ∨ e = .status ∨ e = .dt ∨ e = .st) s t)

/-- R142, R176: a poll without a newly pressed key changes nothing but the latch and the boundary; no tick (S9). What "newly pressed"
means here, the `edge` reading, is the model's choice, the spec's decision D18 (log 12), and the poll as a step of its own is D19
(log 15). -/
def Obligations.PollWithoutNewKeyWaits : Prop :=
  ∀ (x : RegIdx) (s : State), s.status = .waitKey x → s.hostOpenNow = true →
    (∀ k, k < 16 → ¬ NewlyPressed s.keys s.keySampleNow k) →
    ∃ t, step s = .next t ∧ t.status = .waitKey x ∧ t.keys = s.keySampleNow ∧ ChangesOnly BoundaryElem s t

/-- R143 under both values of `KEYWAIT_TRIGGER`: which keys are new, and that the first is the lowest (D18, log 12). -/
def Obligations.NewKeyUnderBothTriggers : Prop :=
  ∀ (before now : KeySet) (k : Nat), k < 16 →
    (leastKey (newKeys .edge before now) = some k ↔
      NewlyPressed before now k ∧ ∀ j, j < k → ¬ NewlyPressed before now j) ∧
    (leastKey (newKeys .level before now) = some k ↔
      now.getLsbD k = true ∧ ∀ j, j < k → now.getLsbD j = false)

/-! ### Timers -/

/-- R150: `ST <- V[x]`; the tick of the same cycle is in OneTickPerCompletedCycle and SoundExpireMarksOneToZero. -/
def Obligations.LdstSetsSoundTimer : Prop :=
  ∀ (x : RegIdx) (s : State), HasPattern (.ldst x) 0xF0FF 0xF018 ∧
    ∃ t, exec (.ldst x) s = .next t ∧ t.st = s.reg x ∧ t.pc = s.pc + 2 ∧
      ChangesOnly (fun e => e = .st ∨ e = .pc) s t

/-- R151: both timers count down by one and floor at zero, independently, and a timer holding `v` is at `v - k` after `k` ticks. -/
def Obligations.TickCountsDownToZero : Prop :=
  ∀ s : State, ChangesOnly (fun e => e = .dt ∨ e = .st ∨ e = .soundExpire) s s.timerTick ∧
    ∀ k : Nat, (State.timerTick^[k] s).dt.toNat = s.dt.toNat - k ∧ (State.timerTick^[k] s).st.toNat = s.st.toNat - k

/-- R96, R195: a completed cycle ticks once, `DT` and `ST` each from its value before the cycle, but for a cycle that fetched `LDST Vx`,
whose tick acts on the value just written, `V[x]`. A cycle that WKEY suspends, a step that finds the host closed and a poll that
goes on waiting do not tick; a poll that completes ticks once (the closed host and the polls: D9, D19, log 15). -/
def Obligations.OneTickPerCompletedCycle : Prop :=
  ∀ s t : State, step s = .next t →
    (t.status = .running →
      t.dt.toNat = s.dt.toNat - 1 ∧
      (∀ x, s.status = .running → FetchesInstr s (.ldst x) → t.st.toNat = (s.reg x).toNat - 1) ∧
      ((∀ x, ¬ (s.status = .running ∧ FetchesInstr s (.ldst x))) → t.st.toNat = s.st.toNat - 1)) ∧
    ((t.status = .stopped ∨ ∃ x, t.status = .waitKey x) → t.dt = s.dt ∧ t.st = s.st)

/-- R152: `sound_expire` is asserted by the tick that takes `ST` from 1 to 0 and by no other step (D29, log 14). -/
def Obligations.SoundExpireMarksOneToZero : Prop :=
  ∀ s t : State, step s = .next t → t.status ≠ .halted →
    (t.soundExpire = true ↔ t.status = .running ∧
      ((s.st = 1 ∧ ∀ x, ¬ (s.status = .running ∧ FetchesInstr s (.ldst x))) ∨
        ∃ x, s.status = .running ∧ FetchesInstr s (.ldst x) ∧ s.reg x = 1))

/-! ### The cycle -/

/-- R90, R94, R96: in a running machine whose host is open, a step is the meaning of the instruction at `pc`, at the state after the
boundary actions, and the tick if the cycle completed. That the host is asked and the latch is the sample before the fetch is the
spec's decision D8, D9 (log 15); that `exec` ends before the tick is the model's reading (DEDUCED, log 22). -/
def Obligations.StepRunsDecodedInstruction : Prop :=
  ∀ (s : State) (ins : Instr), s.status = .running → s.hostOpenNow = true → FetchesInstr s ins →
    ChangesOnly BoundaryElem s s.betweenCycles.cycleStart ∧ s.betweenCycles.cycleStart.keys = s.keySampleNow ∧
    step s = endCycleOf (exec ins s.betweenCycles.cycleStart) ∧
    ∀ t, exec ins s.betweenCycles.cycleStart = .next t →
      step s = .next (if t.status = .running then t.timerTick else t)

/-- R31: the whole latch is replaced by the sample at every cycle and every poll (the point is D8, log 15). -/
def Obligations.LatchReplacedAtEverySample : Prop :=
  ∀ s t : State, s.hostOpenNow = true → step s = .next t → t.status ≠ .halted →
    t.keys = s.keySampleNow ∧ t.keyDraws = s.keyDraws.rest

/-- R91: a closed host stops the run before anything else; no fetch, no sample, no tick (D9, log 15). -/
def Obligations.ClosedHostStopsTheRun : Prop :=
  ∀ s : State, s.Live → s.hostOpenNow = false →
    ∃ t, step s = .next t ∧ t.status = .stopped ∧
      ChangesOnly (fun e => e = .status ∨ e = .fbDirty ∨ e = .soundExpire ∨ e = .openDraws ∨ e = .frameDraws) s t

/-- R92: a fetch past the last cell raises; the address recorded is the lowest one outside (D12, log 9). -/
def Obligations.FetchPastMemoryHalts : Prop :=
  ∀ s : State, s.status = .running → s.hostOpenNow = true → 4094 < s.pc.toNat →
    ∃ t, step s = .next t ∧
      HaltedWith t (.addressOutOfRange .mem (if s.pc.toNat = 4095 then 4096 else s.pc.toNat))

/-- R77: every word that matches no row raises `UnsupportedInstruction(op)` when it is dispatched. -/
def Obligations.UnmatchedWordHalts : Prop :=
  ∀ (s : State) (op : Word), s.status = .running → s.hostOpenNow = true → s.pc.toNat ≤ 4094 →
    op = wordOfBytes (s.mem.read s.pc.toNat) (s.mem.read (s.pc.toNat + 1)) →
    (∀ r ∈ opcodeTable, op &&& r.mask ≠ r.pattern) →
    ∃ t, step s = .next t ∧ HaltedWith t (.unsupportedInstruction op)

/-- R164: a raise records the fault and halts, and the engine takes no further step. -/
def Obligations.RaiseEndsTheRun : Prop :=
  ∀ (s : State) (f : FaultRecord), HaltedWith (s.raise f) f ∧ step (s.raise f) = .fault .halted

/-- R98: a running or waiting machine has a next state; a halted or stopped one has no step; nothing is refused. -/
def Obligations.StepEndsOnlyWhenRunIsOver : Prop :=
  ∀ s : State, (s.Live → ∃ t, step s = .next t) ∧ (s.status = .halted → step s = .fault .halted) ∧
    (s.status = .stopped → step s = .fault .stopped)

/-! ### Whole-machine rules -/

/-- R29: the framebuffer is "mutated only by the sprite-draw operation". -/
def Obligations.OnlyDrwChangesFramebuffer : Prop :=
  ∀ s t : State, step s = .next t → t.status ≠ .halted → t.fb ≠ s.fb →
    s.status = .running ∧ ∃ x y n, FetchesInstr s (.drw x y n)

/-- R59, R124: the only store instruction is BCD, and it stores at `I`, `I + 1`, `I + 2`. -/
def Obligations.OnlyBcdChangesMemory : Prop :=
  ∀ (s t : State) (a : Nat), step s = .next t → t.status ≠ .halted → t.mem.read a ≠ s.mem.read a →
    s.status = .running ∧ (∃ x, FetchesInstr s (.bcd x)) ∧ s.i.toNat ≤ a ∧ a ≤ s.i.toNat + 2

/-- R22, of `exec`, an instruction within its own cycle: ADD and DRW write `V[F]` unasked, any other instruction only when it names it.
WKEY VF writes `V[F]` too (R142, T6.14), not in `exec`, where it only suspends, but in the poll that completes it (`State.poll`;
where `exec` ends is log 22, the polls are D19, log 15): WkeySuspendsThenStoresKey says what that poll writes. -/
def Obligations.FlagWrittenOnlyByAddAndDrw : Prop :=
  ∀ (ins : Instr) (s t : State), exec ins s = .next t → t.status ≠ .halted → t.reg flagReg ≠ s.reg flagReg →
    match ins with
    | .add _ _ | .drw _ _ _ => True
    | .ld x _ | .addi x _ | .and x _ | .rnd x _ | .ldm x => x = flagReg
    | _ => False

/-- R23, R26, R27, R171, of `exec`: `I` is written by LDI and LDF alone, `ST` by LDST alone, `DT` by no instruction. The tick, which
counts both timers down, comes after `exec` or in the poll that completes a WKEY (log 22; D19, log 15): OneTickPerCompletedCycle. -/
def Obligations.SpecialRegistersHaveOnlyTheirWriters : Prop :=
  ∀ (ins : Instr) (s t : State), exec ins s = .next t → t.status ≠ .halted →
    (t.i ≠ s.i → (∃ nnn, ins = .ldi nnn) ∨ ∃ x, ins = .ldf x) ∧ (t.st ≠ s.st → ∃ x, ins = .ldst x) ∧ t.dt = s.dt

/-- R145: the key-wait is the only suspension point. -/
def Obligations.OnlyWkeySuspends : Prop :=
  ∀ (s t : State) (x : RegIdx), step s = .next t → t.status = .waitKey x →
    s.status = .waitKey x ∨ s.status = .running ∧ FetchesInstr s (.wkey x)

/-- R30: `fb_dirty` is set by every completed draw, cleared by the host's read alone, never by the engine (D25, log 16). -/
def Obligations.DirtySetByDrawClearedByHost : Prop :=
  ∀ s t : State, step s = .next t → t.status ≠ .halted →
    (s.status = .running → s.hostOpenNow = true → (∃ x y n, FetchesInstr s (.drw x y n)) → t.fbDirty = true) ∧
    ((¬ (s.status = .running ∧ s.hostOpenNow = true ∧ ∃ x y n, FetchesInstr s (.drw x y n))) →
      t.fbDirty = (s.fbDirty && !s.hostReadsNow))

/-- R25: the call stack is inert: no step changes it, and no step depends on it. -/
def Obligations.StackIsUnobservable : Prop :=
  ∀ (s t : State) (k : Vector Word 16) (p : Fin 17), step s = .next t → t.status ≠ .halted →
    step { s with stack := k, sp := p } = .next { t with stack := k, sp := p }

/-- R31, R51 (c), R114, of `exec`, an instruction within its own cycle: the latch reaches only SKP and SKNP, the random draws reach
only RND. The third reader of the latch, WKEY (R20, R173), reads it not in `exec`, where it only suspends, but in its polls
(`State.poll`; log 22, and D19, log 15): WkeySuspendsThenStoresKey and PollWithoutNewKeyWaits say what they do with it. -/
def Obligations.InputsReachOnlyTheirReaders : Prop :=
  ∀ (ins : Instr) (s t : State), exec ins s = .next t → t.status ≠ .halted →
    ((∀ x, ins ≠ .skp x ∧ ins ≠ .sknp x) → ∀ ks, exec ins { s with keys := ks } = .next { t with keys := ks }) ∧
    ((∀ x nn, ins ≠ .rnd x nn) → ∀ d, exec ins { s with randDraws := d } = .next { t with randDraws := d })

/-- R153, R172, of `exec`: no instruction reads a timer. The tick, which does, comes after `exec` (log 22). -/
def Obligations.TimersAreWriteOnly : Prop :=
  ∀ (ins : Instr) (s t : State) (a b : Byte), exec ins s = .next t → t.status ≠ .halted →
    ∃ u, exec ins { s with dt := a, st := b } = .next u ∧ ChangesOnly (fun e => e = .dt ∨ e = .st) t u

/-! ### Invariants -/

/-- R41 with the canonical memory: every step from a state of the invariant keeps it. The bounds rest on the reset values D2, D3, D4
(log 2) only through the state they start from. -/
def Obligations.StepKeepsInvariant : Prop := ∀ s t : State, s.Inv → step s = .next t → t.Inv

/-- R40, R41: the state after reset meets the invariant (its values are the model's, log 2). -/
def Obligations.ResetMeetsInvariant : Prop := State.reset.Inv

/-- R190, R64: so does the state after the Loader, with any image at all. The bounds rest on the reset values of `I`, `DT` and the stack,
which are the model's choice (D2 to D4, log 2), and that an image that does not fit leaves a halted machine is D28 (log 17). -/
def Obligations.BootMeetsInvariant : Prop := ∀ image : List Byte, (State.boot image).Inv
end

