-- ==== Sys2Proof/Laws/Encoding.lean ====
section
/-! SUPPORT. The fields of the words the encoder's formats make (30_encoding.md R71, R72). -/

namespace Sys2Proof

theorem fam_XNN (f : BitVec 4) (x : RegIdx) (nn : Byte) : famField (encodeXNN f x nn) = f := by
  apply BitVec.eq_of_getLsbD_eq
  intro i hi
  simp only [famField, encodeXNN, BitVec.getLsbD_extractLsb', BitVec.getLsbD_append]
  have : ¬ 12 + i < 8 := by omega
  have h2 : ¬ 12 + i - 8 < 4 := by omega
  simp [hi, this, h2, show 12 + i - 8 - 4 = i by omega]

theorem x_XNN (f : BitVec 4) (x : RegIdx) (nn : Byte) : xField (encodeXNN f x nn) = x := by
  have : (encodeXNN f x nn).extractLsb' 8 4 = regBits x := by
    apply BitVec.eq_of_getLsbD_eq
    intro i hi
    simp only [encodeXNN, BitVec.getLsbD_extractLsb', BitVec.getLsbD_append]
    have : ¬ 8 + i < 8 := by omega
    simp [hi]
  rw [xField, this]
  rfl

theorem nn_XNN (f : BitVec 4) (x : RegIdx) (nn : Byte) : nnField (encodeXNN f x nn) = nn := by
  apply BitVec.eq_of_getLsbD_eq
  intro i hi
  simp only [nnField, encodeXNN, BitVec.getLsbD_extractLsb', BitVec.getLsbD_append]
  simp [hi]

theorem fam_XYN (f : BitVec 4) (x y : RegIdx) (n : BitVec 4) : famField (encodeXYN f x y n) = f := by
  apply BitVec.eq_of_getLsbD_eq
  intro i hi
  simp only [famField, encodeXYN, BitVec.getLsbD_extractLsb', BitVec.getLsbD_append]
  have h1 : ¬ 12 + i < 4 := by omega
  have h2 : ¬ 12 + i - 4 < 4 := by omega
  have h3 : ¬ 12 + i - 4 - 4 < 4 := by omega
  simp [hi, h1, h2, h3, show 12 + i - 4 - 4 - 4 = i by omega]

theorem x_XYN (f : BitVec 4) (x y : RegIdx) (n : BitVec 4) : xField (encodeXYN f x y n) = x := by
  have : (encodeXYN f x y n).extractLsb' 8 4 = regBits x := by
    apply BitVec.eq_of_getLsbD_eq
    intro i hi
    simp only [encodeXYN, BitVec.getLsbD_extractLsb', BitVec.getLsbD_append]
    have h1 : ¬ 8 + i < 4 := by omega
    have h2 : ¬ 8 + i - 4 < 4 := by omega
    simp [hi, h1, h2, show 8 + i - 4 - 4 = i by omega]
  rw [xField, this]
  rfl

theorem y_XYN (f : BitVec 4) (x y : RegIdx) (n : BitVec 4) : yField (encodeXYN f x y n) = y := by
  have : (encodeXYN f x y n).extractLsb' 4 4 = regBits y := by
    apply BitVec.eq_of_getLsbD_eq
    intro i hi
    simp only [encodeXYN, BitVec.getLsbD_extractLsb', BitVec.getLsbD_append]
    simp [hi]
  rw [yField, this]
  rfl

theorem n_XYN (f : BitVec 4) (x y : RegIdx) (n : BitVec 4) : nField (encodeXYN f x y n) = n := by
  apply BitVec.eq_of_getLsbD_eq
  intro i hi
  simp only [nField, encodeXYN, BitVec.getLsbD_extractLsb', BitVec.getLsbD_append]
  simp [hi]

theorem fam_NNN (f : BitVec 4) (nnn : BitVec 12) : famField (encodeNNN f nnn) = f := by
  apply BitVec.eq_of_getLsbD_eq
  intro i hi
  simp only [famField, encodeNNN, BitVec.getLsbD_extractLsb', BitVec.getLsbD_append]
  simp [hi]

theorem nnn_NNN (f : BitVec 4) (nnn : BitVec 12) : nnnField (encodeNNN f nnn) = nnn := by
  apply BitVec.eq_of_getLsbD_eq
  intro i hi
  simp only [nnnField, encodeNNN, BitVec.getLsbD_extractLsb', BitVec.getLsbD_append]
  simp [hi]

/-- A word is its four nibbles, so two words with the same fields are equal (R71). -/
theorem word_ext {a b : Word} (hf : famField a = famField b) (hx : xField a = xField b) (hn : nnField a = nnField b) :
    a = b := by
  have hx' : a.extractLsb' 8 4 = b.extractLsb' 8 4 := BitVec.toFin_inj.mp hx
  apply BitVec.eq_of_getLsbD_eq
  intro i hi
  rcases Nat.lt_or_ge i 8 with h | h
  · have := congrArg (fun v => v.getLsbD i) hn
    simpa [nnField, BitVec.getLsbD_extractLsb', h] using this
  · rcases Nat.lt_or_ge i 12 with h2 | h2
    · have := congrArg (fun v => v.getLsbD (i - 8)) hx'
      simpa [BitVec.getLsbD_extractLsb', show i - 8 < 4 by omega, show 8 + (i - 8) = i by omega] using this
    · have := congrArg (fun v => v.getLsbD (i - 12)) hf
      simpa [famField, BitVec.getLsbD_extractLsb', show i - 12 < 4 by omega, show 12 + (i - 12) = i by omega] using this

/-- The byte `nn` is the nibbles `y` and `n` (R71). -/
theorem nn_ext {a b : Word} (hy : yField a = yField b) (hn : nField a = nField b) : nnField a = nnField b := by
  have hy' : a.extractLsb' 4 4 = b.extractLsb' 4 4 := BitVec.toFin_inj.mp hy
  apply BitVec.eq_of_getLsbD_eq
  intro i hi
  rcases Nat.lt_or_ge i 4 with h | h
  · have := congrArg (fun v => v.getLsbD i) hn
    simpa [nField, nnField, BitVec.getLsbD_extractLsb', h, hi] using this
  · have := congrArg (fun v => v.getLsbD (i - 4)) hy'
    simpa [nnField, BitVec.getLsbD_extractLsb', show i - 4 < 4 by omega, show 4 + (i - 4) = i by omega, hi] using this

/-! A field of a word as a number (R71): which bits, and that nothing is scaled (R73). -/

theorem xField_val (op : Word) : (xField op).val = op.toNat / 256 % 16 := by
  simp [xField, Nat.shiftRight_eq_div_pow]

theorem yField_val (op : Word) : (yField op).val = op.toNat / 16 % 16 := by
  simp [yField, Nat.shiftRight_eq_div_pow]

theorem nField_toNat (op : Word) : (nField op).toNat = op.toNat % 16 := by
  simp [nField, BitVec.extractLsb'_toNat]

theorem nnField_toNat (op : Word) : (nnField op).toNat = op.toNat % 256 := by
  simp [nnField, BitVec.extractLsb'_toNat]

theorem nnnField_toNat (op : Word) : (nnnField op).toNat = op.toNat % 4096 := by
  simp [nnnField, BitVec.extractLsb'_toNat]

end Sys2Proof
end

