-- ==== Sys2Proof/Laws/Memory.lean ====
section
/-! SUPPORT. The laws of memory: a read after a write, and the canonical form kept by every operation. -/

namespace Sys2Proof.Machine

theorem Memory.read_cons (k : Nat) (b : Byte) (m : Memory) (a : Nat) :
    Memory.read ((k, b) :: m) a = if k = a then b else Memory.read m a := rfl

theorem Memory.read_erase (m : Memory) (a c : Nat) :
    (m.erase a).read c = if c = a then resetByte a else m.read c := by
  induction m with
  | nil => by_cases h : c = a <;> simp [Memory.erase, Memory.read, h]
  | cons cell m ih =>
    obtain ⟨k, b⟩ := cell
    by_cases hk : k = a
    · subst hk
      have he : Memory.erase k ((k, b) :: m) = Memory.erase k m := by simp [Memory.erase]
      rw [he, ih, Memory.read_cons]
      by_cases hc : c = k
      · simp [hc]
      · simp [hc, Ne.symm hc]
    · have he : Memory.erase a ((k, b) :: m) = (k, b) :: Memory.erase a m := by simp [Memory.erase, hk]
      rw [he, Memory.read_cons, ih, Memory.read_cons]
      by_cases hc : k = c
      · subst hc; simp [hk]
      · simp [hc]

/-- Inserting at an unlisted address makes that address, and no other, read as the new byte. -/
theorem Memory.read_insert (m : Memory) (a : Nat) (v : Byte) (h : ∀ cell ∈ m, cell.1 ≠ a) (c : Nat) :
    (Memory.insert a v m).read c = if c = a then v else m.read c := by
  induction m with
  | nil =>
    by_cases hc : c = a
    · simp [Memory.insert, Memory.read, hc]
    · simp [Memory.insert, Memory.read, hc, Ne.symm hc]
  | cons cell m ih =>
    obtain ⟨k, b⟩ := cell
    have hk : k ≠ a := h (k, b) (by simp)
    simp only [Memory.insert]
    split
    · rw [Memory.read_cons]
      by_cases hc : c = a
      · simp [hc]
      · simp [hc, Ne.symm hc]
    · rw [Memory.read_cons, ih (fun cell hm => h cell (by simp [hm])), Memory.read_cons]
      by_cases hc : k = c
      · subst hc; simp [hk]
      · simp [hc]

theorem Memory.erase_no_entry (m : Memory) (a : Nat) : ∀ cell ∈ m.erase a, cell.1 ≠ a := by
  intro cell h
  simpa [Memory.erase] using (List.mem_filter.mp h).2

/-- A write is seen at its own address and nowhere else (R53, R58). -/
theorem Memory.read_write (m : Memory) (a : Nat) (v : Byte) (c : Nat) :
    (m.write a v).read c = if c = a then v else m.read c := by
  unfold Memory.write
  split
  · next h => rw [Memory.read_erase, h]
  · rw [Memory.read_insert _ _ _ (m.erase_no_entry a), Memory.read_erase]
    by_cases hc : c = a <;> simp [hc]

/-- Bytes stored from `a` up are seen at `a, a+1, …` and nowhere else (R56). -/
theorem Memory.read_store (bs : List Byte) (m : Memory) (a c : Nat) :
    (m.store a bs).read c = if h : a ≤ c ∧ c - a < bs.length then bs[c - a]'h.2 else m.read c := by
  induction bs generalizing m a with
  | nil => simp [Memory.store]
  | cons b bs ih =>
    rw [Memory.store, ih, Memory.read_write]
    by_cases hc : c = a
    · subst hc; simp
    · by_cases hlt : a < c
      · obtain ⟨d, rfl⟩ : ∃ d, c = a + 1 + d := ⟨c - a - 1, by omega⟩
        have e1 : a + 1 + d - a = d + 1 := by omega
        have e2 : a + 1 + d - (a + 1) = d := by omega
        by_cases hd : d < bs.length
        · have : a ≤ a + 1 + d := by omega
          simp [e1, e2, hd, this]
        · have : ¬ a + 1 + d = a := by omega
          simp [e1, e2, hd, this]
      · have h1 : ¬ (a + 1 ≤ c) := by omega
        have h2 : ¬ (a ≤ c) := by omega
        simp [h1, h2, hc]

/-! ### The canonical form -/

theorem Memory.wfFrom_cons (lo k : Nat) (b : Byte) (m : Memory) :
    Memory.wfFrom lo ((k, b) :: m) = true ↔
      lo ≤ k ∧ k < 4096 ∧ b ≠ resetByte k ∧ Memory.wfFrom (k + 1) m = true := by
  simp [Memory.wfFrom, and_assoc]

theorem Memory.wfFrom_mono {lo lo' : Nat} (hl : lo' ≤ lo) {m : Memory} (h : Memory.wfFrom lo m = true) :
    Memory.wfFrom lo' m = true := by
  cases m with
  | nil => rfl
  | cons cell m =>
    obtain ⟨k, b⟩ := cell
    rw [Memory.wfFrom_cons] at h ⊢
    exact ⟨by omega, h.2⟩

theorem Memory.wfFrom_erase (a : Nat) {lo : Nat} {m : Memory} (h : Memory.wfFrom lo m = true) :
    Memory.wfFrom lo (m.erase a) = true := by
  induction m generalizing lo with
  | nil => rfl
  | cons cell m ih =>
    obtain ⟨k, b⟩ := cell
    rw [Memory.wfFrom_cons] at h
    obtain ⟨h1, h2, h3, h4⟩ := h
    by_cases hk : k = a
    · have he : Memory.erase a ((k, b) :: m) = Memory.erase a m := by simp [Memory.erase, hk]
      rw [he]
      exact ih (Memory.wfFrom_mono (by omega) h4)
    · have he : Memory.erase a ((k, b) :: m) = (k, b) :: Memory.erase a m := by simp [Memory.erase, hk]
      rw [he, Memory.wfFrom_cons]
      exact ⟨h1, h2, h3, ih h4⟩

theorem Memory.wfFrom_insert {a : Nat} {v : Byte} (ha : a < 4096) (hv : v ≠ resetByte a) {lo : Nat} (hlo : lo ≤ a)
    {m : Memory} (hn : ∀ cell ∈ m, cell.1 ≠ a) (h : Memory.wfFrom lo m = true) :
    Memory.wfFrom lo (Memory.insert a v m) = true := by
  induction m generalizing lo with
  | nil =>
    rw [Memory.insert, Memory.wfFrom_cons]
    exact ⟨hlo, ha, hv, rfl⟩
  | cons cell m ih =>
    obtain ⟨k, b⟩ := cell
    have hk : k ≠ a := hn (k, b) (by simp)
    have h' := (Memory.wfFrom_cons lo k b m).mp h
    obtain ⟨h1, h2, h3, h4⟩ := h'
    simp only [Memory.insert]
    split
    · next hlt =>
      rw [Memory.wfFrom_cons]
      exact ⟨hlo, ha, hv, (Memory.wfFrom_cons _ k b m).mpr ⟨hlt, h2, h3, h4⟩⟩
    · next hge =>
      rw [Memory.wfFrom_cons]
      exact ⟨h1, h2, h3, ih (by omega) (fun cell hm => hn cell (by simp [hm])) h4⟩

/-- A write inside memory keeps the canonical form. -/
theorem Memory.wf_write {m : Memory} (h : m.wf = true) {a : Nat} (ha : a < 4096) (v : Byte) :
    (m.write a v).wf = true := by
  unfold Memory.write
  split
  · exact Memory.wfFrom_erase a h
  · next hv =>
    exact Memory.wfFrom_insert ha hv (Nat.zero_le a) (m.erase_no_entry a) (Memory.wfFrom_erase a h)

/-- A block stored inside memory keeps the canonical form. -/
theorem Memory.wf_store {m : Memory} (h : m.wf = true) {a : Nat} {bs : List Byte} (ha : a + bs.length ≤ 4096) :
    (m.store a bs).wf = true := by
  induction bs generalizing m a with
  | nil => exact h
  | cons b bs ih =>
    rw [List.length_cons] at ha
    exact ih (Memory.wf_write h (by omega) b) (by omega)

end Sys2Proof.Machine
end

