-- ==== Sys2Proof/Laws/State.lean ====
section
/-! SUPPORT. What each named update does to each field of State, so that no proof unfolds a record update. -/

namespace Sys2Proof.Machine

variable (s : State)

/-! ### `setReg` -/

@[simp] theorem State.setReg_v (x : RegIdx) (b : Byte) : (s.setReg x b).v = s.v.set x b := rfl
@[simp] theorem State.setReg_i (x : RegIdx) (b : Byte) : (s.setReg x b).i = s.i := rfl
@[simp] theorem State.setReg_pc (x : RegIdx) (b : Byte) : (s.setReg x b).pc = s.pc := rfl
@[simp] theorem State.setReg_stack (x : RegIdx) (b : Byte) : (s.setReg x b).stack = s.stack := rfl
@[simp] theorem State.setReg_sp (x : RegIdx) (b : Byte) : (s.setReg x b).sp = s.sp := rfl
@[simp] theorem State.setReg_dt (x : RegIdx) (b : Byte) : (s.setReg x b).dt = s.dt := rfl
@[simp] theorem State.setReg_st (x : RegIdx) (b : Byte) : (s.setReg x b).st = s.st := rfl
@[simp] theorem State.setReg_mem (x : RegIdx) (b : Byte) : (s.setReg x b).mem = s.mem := rfl
@[simp] theorem State.setReg_fb (x : RegIdx) (b : Byte) : (s.setReg x b).fb = s.fb := rfl
@[simp] theorem State.setReg_fbDirty (x : RegIdx) (b : Byte) : (s.setReg x b).fbDirty = s.fbDirty := rfl
@[simp] theorem State.setReg_keys (x : RegIdx) (b : Byte) : (s.setReg x b).keys = s.keys := rfl
@[simp] theorem State.setReg_status (x : RegIdx) (b : Byte) : (s.setReg x b).status = s.status := rfl
@[simp] theorem State.setReg_fault (x : RegIdx) (b : Byte) : (s.setReg x b).fault = s.fault := rfl
@[simp] theorem State.setReg_soundExpire (x : RegIdx) (b : Byte) : (s.setReg x b).soundExpire = s.soundExpire := rfl
@[simp] theorem State.setReg_openDraws (x : RegIdx) (b : Byte) : (s.setReg x b).openDraws = s.openDraws := rfl
@[simp] theorem State.setReg_frameDraws (x : RegIdx) (b : Byte) : (s.setReg x b).frameDraws = s.frameDraws := rfl
@[simp] theorem State.setReg_keyDraws (x : RegIdx) (b : Byte) : (s.setReg x b).keyDraws = s.keyDraws := rfl
@[simp] theorem State.setReg_randDraws (x : RegIdx) (b : Byte) : (s.setReg x b).randDraws = s.randDraws := rfl

/-! ### `setI` -/

@[simp] theorem State.setI_v (w : Word) : (s.setI w).v = s.v := rfl
@[simp] theorem State.setI_i (w : Word) : (s.setI w).i = w := rfl
@[simp] theorem State.setI_pc (w : Word) : (s.setI w).pc = s.pc := rfl
@[simp] theorem State.setI_stack (w : Word) : (s.setI w).stack = s.stack := rfl
@[simp] theorem State.setI_sp (w : Word) : (s.setI w).sp = s.sp := rfl
@[simp] theorem State.setI_dt (w : Word) : (s.setI w).dt = s.dt := rfl
@[simp] theorem State.setI_st (w : Word) : (s.setI w).st = s.st := rfl
@[simp] theorem State.setI_mem (w : Word) : (s.setI w).mem = s.mem := rfl
@[simp] theorem State.setI_fb (w : Word) : (s.setI w).fb = s.fb := rfl
@[simp] theorem State.setI_fbDirty (w : Word) : (s.setI w).fbDirty = s.fbDirty := rfl
@[simp] theorem State.setI_keys (w : Word) : (s.setI w).keys = s.keys := rfl
@[simp] theorem State.setI_status (w : Word) : (s.setI w).status = s.status := rfl
@[simp] theorem State.setI_fault (w : Word) : (s.setI w).fault = s.fault := rfl
@[simp] theorem State.setI_soundExpire (w : Word) : (s.setI w).soundExpire = s.soundExpire := rfl
@[simp] theorem State.setI_openDraws (w : Word) : (s.setI w).openDraws = s.openDraws := rfl
@[simp] theorem State.setI_frameDraws (w : Word) : (s.setI w).frameDraws = s.frameDraws := rfl
@[simp] theorem State.setI_keyDraws (w : Word) : (s.setI w).keyDraws = s.keyDraws := rfl
@[simp] theorem State.setI_randDraws (w : Word) : (s.setI w).randDraws = s.randDraws := rfl

/-! ### `setSt` -/

@[simp] theorem State.setSt_v (b : Byte) : (s.setSt b).v = s.v := rfl
@[simp] theorem State.setSt_i (b : Byte) : (s.setSt b).i = s.i := rfl
@[simp] theorem State.setSt_pc (b : Byte) : (s.setSt b).pc = s.pc := rfl
@[simp] theorem State.setSt_stack (b : Byte) : (s.setSt b).stack = s.stack := rfl
@[simp] theorem State.setSt_sp (b : Byte) : (s.setSt b).sp = s.sp := rfl
@[simp] theorem State.setSt_dt (b : Byte) : (s.setSt b).dt = s.dt := rfl
@[simp] theorem State.setSt_st (b : Byte) : (s.setSt b).st = b := rfl
@[simp] theorem State.setSt_mem (b : Byte) : (s.setSt b).mem = s.mem := rfl
@[simp] theorem State.setSt_fb (b : Byte) : (s.setSt b).fb = s.fb := rfl
@[simp] theorem State.setSt_fbDirty (b : Byte) : (s.setSt b).fbDirty = s.fbDirty := rfl
@[simp] theorem State.setSt_keys (b : Byte) : (s.setSt b).keys = s.keys := rfl
@[simp] theorem State.setSt_status (b : Byte) : (s.setSt b).status = s.status := rfl
@[simp] theorem State.setSt_fault (b : Byte) : (s.setSt b).fault = s.fault := rfl
@[simp] theorem State.setSt_soundExpire (b : Byte) : (s.setSt b).soundExpire = s.soundExpire := rfl
@[simp] theorem State.setSt_openDraws (b : Byte) : (s.setSt b).openDraws = s.openDraws := rfl
@[simp] theorem State.setSt_frameDraws (b : Byte) : (s.setSt b).frameDraws = s.frameDraws := rfl
@[simp] theorem State.setSt_keyDraws (b : Byte) : (s.setSt b).keyDraws = s.keyDraws := rfl
@[simp] theorem State.setSt_randDraws (b : Byte) : (s.setSt b).randDraws = s.randDraws := rfl

/-! ### `advance` -/

@[simp] theorem State.advance_v : s.advance.v = s.v := rfl
@[simp] theorem State.advance_i : s.advance.i = s.i := rfl
@[simp] theorem State.advance_pc : s.advance.pc = s.pc + 2 := rfl
@[simp] theorem State.advance_stack : s.advance.stack = s.stack := rfl
@[simp] theorem State.advance_sp : s.advance.sp = s.sp := rfl
@[simp] theorem State.advance_dt : s.advance.dt = s.dt := rfl
@[simp] theorem State.advance_st : s.advance.st = s.st := rfl
@[simp] theorem State.advance_mem : s.advance.mem = s.mem := rfl
@[simp] theorem State.advance_fb : s.advance.fb = s.fb := rfl
@[simp] theorem State.advance_fbDirty : s.advance.fbDirty = s.fbDirty := rfl
@[simp] theorem State.advance_keys : s.advance.keys = s.keys := rfl
@[simp] theorem State.advance_status : s.advance.status = s.status := rfl
@[simp] theorem State.advance_fault : s.advance.fault = s.fault := rfl
@[simp] theorem State.advance_soundExpire : s.advance.soundExpire = s.soundExpire := rfl
@[simp] theorem State.advance_openDraws : s.advance.openDraws = s.openDraws := rfl
@[simp] theorem State.advance_frameDraws : s.advance.frameDraws = s.frameDraws := rfl
@[simp] theorem State.advance_keyDraws : s.advance.keyDraws = s.keyDraws := rfl
@[simp] theorem State.advance_randDraws : s.advance.randDraws = s.randDraws := rfl

/-! ### `jump` -/

@[simp] theorem State.jump_v (w : Word) : (s.jump w).v = s.v := rfl
@[simp] theorem State.jump_i (w : Word) : (s.jump w).i = s.i := rfl
@[simp] theorem State.jump_pc (w : Word) : (s.jump w).pc = w := rfl
@[simp] theorem State.jump_stack (w : Word) : (s.jump w).stack = s.stack := rfl
@[simp] theorem State.jump_sp (w : Word) : (s.jump w).sp = s.sp := rfl
@[simp] theorem State.jump_dt (w : Word) : (s.jump w).dt = s.dt := rfl
@[simp] theorem State.jump_st (w : Word) : (s.jump w).st = s.st := rfl
@[simp] theorem State.jump_mem (w : Word) : (s.jump w).mem = s.mem := rfl
@[simp] theorem State.jump_fb (w : Word) : (s.jump w).fb = s.fb := rfl
@[simp] theorem State.jump_fbDirty (w : Word) : (s.jump w).fbDirty = s.fbDirty := rfl
@[simp] theorem State.jump_keys (w : Word) : (s.jump w).keys = s.keys := rfl
@[simp] theorem State.jump_status (w : Word) : (s.jump w).status = s.status := rfl
@[simp] theorem State.jump_fault (w : Word) : (s.jump w).fault = s.fault := rfl
@[simp] theorem State.jump_soundExpire (w : Word) : (s.jump w).soundExpire = s.soundExpire := rfl
@[simp] theorem State.jump_openDraws (w : Word) : (s.jump w).openDraws = s.openDraws := rfl
@[simp] theorem State.jump_frameDraws (w : Word) : (s.jump w).frameDraws = s.frameDraws := rfl
@[simp] theorem State.jump_keyDraws (w : Word) : (s.jump w).keyDraws = s.keyDraws := rfl
@[simp] theorem State.jump_randDraws (w : Word) : (s.jump w).randDraws = s.randDraws := rfl

/-! ### `skipIf` -/

@[simp] theorem State.skipIf_v (c : Bool) : (s.skipIf c).v = s.v := rfl
@[simp] theorem State.skipIf_i (c : Bool) : (s.skipIf c).i = s.i := rfl
@[simp] theorem State.skipIf_pc (c : Bool) : (s.skipIf c).pc = if c then s.pc + 4 else s.pc + 2 := rfl
@[simp] theorem State.skipIf_stack (c : Bool) : (s.skipIf c).stack = s.stack := rfl
@[simp] theorem State.skipIf_sp (c : Bool) : (s.skipIf c).sp = s.sp := rfl
@[simp] theorem State.skipIf_dt (c : Bool) : (s.skipIf c).dt = s.dt := rfl
@[simp] theorem State.skipIf_st (c : Bool) : (s.skipIf c).st = s.st := rfl
@[simp] theorem State.skipIf_mem (c : Bool) : (s.skipIf c).mem = s.mem := rfl
@[simp] theorem State.skipIf_fb (c : Bool) : (s.skipIf c).fb = s.fb := rfl
@[simp] theorem State.skipIf_fbDirty (c : Bool) : (s.skipIf c).fbDirty = s.fbDirty := rfl
@[simp] theorem State.skipIf_keys (c : Bool) : (s.skipIf c).keys = s.keys := rfl
@[simp] theorem State.skipIf_status (c : Bool) : (s.skipIf c).status = s.status := rfl
@[simp] theorem State.skipIf_fault (c : Bool) : (s.skipIf c).fault = s.fault := rfl
@[simp] theorem State.skipIf_soundExpire (c : Bool) : (s.skipIf c).soundExpire = s.soundExpire := rfl
@[simp] theorem State.skipIf_openDraws (c : Bool) : (s.skipIf c).openDraws = s.openDraws := rfl
@[simp] theorem State.skipIf_frameDraws (c : Bool) : (s.skipIf c).frameDraws = s.frameDraws := rfl
@[simp] theorem State.skipIf_keyDraws (c : Bool) : (s.skipIf c).keyDraws = s.keyDraws := rfl
@[simp] theorem State.skipIf_randDraws (c : Bool) : (s.skipIf c).randDraws = s.randDraws := rfl

/-! ### `raise` -/

@[simp] theorem State.raise_v (f : FaultRecord) : (s.raise f).v = s.v := rfl
@[simp] theorem State.raise_i (f : FaultRecord) : (s.raise f).i = s.i := rfl
@[simp] theorem State.raise_pc (f : FaultRecord) : (s.raise f).pc = s.pc := rfl
@[simp] theorem State.raise_stack (f : FaultRecord) : (s.raise f).stack = s.stack := rfl
@[simp] theorem State.raise_sp (f : FaultRecord) : (s.raise f).sp = s.sp := rfl
@[simp] theorem State.raise_dt (f : FaultRecord) : (s.raise f).dt = s.dt := rfl
@[simp] theorem State.raise_st (f : FaultRecord) : (s.raise f).st = s.st := rfl
@[simp] theorem State.raise_mem (f : FaultRecord) : (s.raise f).mem = s.mem := rfl
@[simp] theorem State.raise_fb (f : FaultRecord) : (s.raise f).fb = s.fb := rfl
@[simp] theorem State.raise_fbDirty (f : FaultRecord) : (s.raise f).fbDirty = s.fbDirty := rfl
@[simp] theorem State.raise_keys (f : FaultRecord) : (s.raise f).keys = s.keys := rfl
@[simp] theorem State.raise_status (f : FaultRecord) : (s.raise f).status = .halted := rfl
@[simp] theorem State.raise_fault (f : FaultRecord) : (s.raise f).fault = some f := rfl
@[simp] theorem State.raise_soundExpire (f : FaultRecord) : (s.raise f).soundExpire = s.soundExpire := rfl
@[simp] theorem State.raise_openDraws (f : FaultRecord) : (s.raise f).openDraws = s.openDraws := rfl
@[simp] theorem State.raise_frameDraws (f : FaultRecord) : (s.raise f).frameDraws = s.frameDraws := rfl
@[simp] theorem State.raise_keyDraws (f : FaultRecord) : (s.raise f).keyDraws = s.keyDraws := rfl
@[simp] theorem State.raise_randDraws (f : FaultRecord) : (s.raise f).randDraws = s.randDraws := rfl

/-! ### `storeBytes` -/

@[simp] theorem State.storeBytes_v (a : Nat) (bs : List Byte) : (s.storeBytes a bs).v = s.v := rfl
@[simp] theorem State.storeBytes_i (a : Nat) (bs : List Byte) : (s.storeBytes a bs).i = s.i := rfl
@[simp] theorem State.storeBytes_pc (a : Nat) (bs : List Byte) : (s.storeBytes a bs).pc = s.pc := rfl
@[simp] theorem State.storeBytes_stack (a : Nat) (bs : List Byte) : (s.storeBytes a bs).stack = s.stack := rfl
@[simp] theorem State.storeBytes_sp (a : Nat) (bs : List Byte) : (s.storeBytes a bs).sp = s.sp := rfl
@[simp] theorem State.storeBytes_dt (a : Nat) (bs : List Byte) : (s.storeBytes a bs).dt = s.dt := rfl
@[simp] theorem State.storeBytes_st (a : Nat) (bs : List Byte) : (s.storeBytes a bs).st = s.st := rfl
@[simp] theorem State.storeBytes_mem (a : Nat) (bs : List Byte) : (s.storeBytes a bs).mem = s.mem.store a bs := rfl
@[simp] theorem State.storeBytes_fb (a : Nat) (bs : List Byte) : (s.storeBytes a bs).fb = s.fb := rfl
@[simp] theorem State.storeBytes_fbDirty (a : Nat) (bs : List Byte) : (s.storeBytes a bs).fbDirty = s.fbDirty := rfl
@[simp] theorem State.storeBytes_keys (a : Nat) (bs : List Byte) : (s.storeBytes a bs).keys = s.keys := rfl
@[simp] theorem State.storeBytes_status (a : Nat) (bs : List Byte) : (s.storeBytes a bs).status = s.status := rfl
@[simp] theorem State.storeBytes_fault (a : Nat) (bs : List Byte) : (s.storeBytes a bs).fault = s.fault := rfl
@[simp] theorem State.storeBytes_soundExpire (a : Nat) (bs : List Byte) : (s.storeBytes a bs).soundExpire = s.soundExpire := rfl
@[simp] theorem State.storeBytes_openDraws (a : Nat) (bs : List Byte) : (s.storeBytes a bs).openDraws = s.openDraws := rfl
@[simp] theorem State.storeBytes_frameDraws (a : Nat) (bs : List Byte) : (s.storeBytes a bs).frameDraws = s.frameDraws := rfl
@[simp] theorem State.storeBytes_keyDraws (a : Nat) (bs : List Byte) : (s.storeBytes a bs).keyDraws = s.keyDraws := rfl
@[simp] theorem State.storeBytes_randDraws (a : Nat) (bs : List Byte) : (s.storeBytes a bs).randDraws = s.randDraws := rfl

/-! ### `timerTick` -/

@[simp] theorem State.timerTick_v : s.timerTick.v = s.v := rfl
@[simp] theorem State.timerTick_i : s.timerTick.i = s.i := rfl
@[simp] theorem State.timerTick_pc : s.timerTick.pc = s.pc := rfl
@[simp] theorem State.timerTick_stack : s.timerTick.stack = s.stack := rfl
@[simp] theorem State.timerTick_sp : s.timerTick.sp = s.sp := rfl
@[simp] theorem State.timerTick_dt : s.timerTick.dt = countdown s.dt := rfl
@[simp] theorem State.timerTick_st : s.timerTick.st = countdown s.st := rfl
@[simp] theorem State.timerTick_mem : s.timerTick.mem = s.mem := rfl
@[simp] theorem State.timerTick_fb : s.timerTick.fb = s.fb := rfl
@[simp] theorem State.timerTick_fbDirty : s.timerTick.fbDirty = s.fbDirty := rfl
@[simp] theorem State.timerTick_keys : s.timerTick.keys = s.keys := rfl
@[simp] theorem State.timerTick_status : s.timerTick.status = s.status := rfl
@[simp] theorem State.timerTick_fault : s.timerTick.fault = s.fault := rfl
@[simp] theorem State.timerTick_soundExpire : s.timerTick.soundExpire = (s.st == 1) := rfl
@[simp] theorem State.timerTick_openDraws : s.timerTick.openDraws = s.openDraws := rfl
@[simp] theorem State.timerTick_frameDraws : s.timerTick.frameDraws = s.frameDraws := rfl
@[simp] theorem State.timerTick_keyDraws : s.timerTick.keyDraws = s.keyDraws := rfl
@[simp] theorem State.timerTick_randDraws : s.timerTick.randDraws = s.randDraws := rfl

/-! ### `takeHostOpen` -/

@[simp] theorem State.takeHostOpen_v : s.takeHostOpen.v = s.v := rfl
@[simp] theorem State.takeHostOpen_i : s.takeHostOpen.i = s.i := rfl
@[simp] theorem State.takeHostOpen_pc : s.takeHostOpen.pc = s.pc := rfl
@[simp] theorem State.takeHostOpen_stack : s.takeHostOpen.stack = s.stack := rfl
@[simp] theorem State.takeHostOpen_sp : s.takeHostOpen.sp = s.sp := rfl
@[simp] theorem State.takeHostOpen_dt : s.takeHostOpen.dt = s.dt := rfl
@[simp] theorem State.takeHostOpen_st : s.takeHostOpen.st = s.st := rfl
@[simp] theorem State.takeHostOpen_mem : s.takeHostOpen.mem = s.mem := rfl
@[simp] theorem State.takeHostOpen_fb : s.takeHostOpen.fb = s.fb := rfl
@[simp] theorem State.takeHostOpen_fbDirty : s.takeHostOpen.fbDirty = s.fbDirty := rfl
@[simp] theorem State.takeHostOpen_keys : s.takeHostOpen.keys = s.keys := rfl
@[simp] theorem State.takeHostOpen_status : s.takeHostOpen.status = s.status := rfl
@[simp] theorem State.takeHostOpen_fault : s.takeHostOpen.fault = s.fault := rfl
@[simp] theorem State.takeHostOpen_soundExpire : s.takeHostOpen.soundExpire = s.soundExpire := rfl
@[simp] theorem State.takeHostOpen_openDraws : s.takeHostOpen.openDraws = s.openDraws.rest := rfl
@[simp] theorem State.takeHostOpen_frameDraws : s.takeHostOpen.frameDraws = s.frameDraws := rfl
@[simp] theorem State.takeHostOpen_keyDraws : s.takeHostOpen.keyDraws = s.keyDraws := rfl
@[simp] theorem State.takeHostOpen_randDraws : s.takeHostOpen.randDraws = s.randDraws := rfl

/-! ### `latchKeys` -/

@[simp] theorem State.latchKeys_v : s.latchKeys.v = s.v := rfl
@[simp] theorem State.latchKeys_i : s.latchKeys.i = s.i := rfl
@[simp] theorem State.latchKeys_pc : s.latchKeys.pc = s.pc := rfl
@[simp] theorem State.latchKeys_stack : s.latchKeys.stack = s.stack := rfl
@[simp] theorem State.latchKeys_sp : s.latchKeys.sp = s.sp := rfl
@[simp] theorem State.latchKeys_dt : s.latchKeys.dt = s.dt := rfl
@[simp] theorem State.latchKeys_st : s.latchKeys.st = s.st := rfl
@[simp] theorem State.latchKeys_mem : s.latchKeys.mem = s.mem := rfl
@[simp] theorem State.latchKeys_fb : s.latchKeys.fb = s.fb := rfl
@[simp] theorem State.latchKeys_fbDirty : s.latchKeys.fbDirty = s.fbDirty := rfl
@[simp] theorem State.latchKeys_keys : s.latchKeys.keys = s.keySampleNow := rfl
@[simp] theorem State.latchKeys_status : s.latchKeys.status = s.status := rfl
@[simp] theorem State.latchKeys_fault : s.latchKeys.fault = s.fault := rfl
@[simp] theorem State.latchKeys_soundExpire : s.latchKeys.soundExpire = s.soundExpire := rfl
@[simp] theorem State.latchKeys_openDraws : s.latchKeys.openDraws = s.openDraws := rfl
@[simp] theorem State.latchKeys_frameDraws : s.latchKeys.frameDraws = s.frameDraws := rfl
@[simp] theorem State.latchKeys_keyDraws : s.latchKeys.keyDraws = s.keyDraws.rest := rfl
@[simp] theorem State.latchKeys_randDraws : s.latchKeys.randDraws = s.randDraws := rfl

/-! ### `takeRandom` -/

@[simp] theorem State.takeRandom_v : s.takeRandom.v = s.v := rfl
@[simp] theorem State.takeRandom_i : s.takeRandom.i = s.i := rfl
@[simp] theorem State.takeRandom_pc : s.takeRandom.pc = s.pc := rfl
@[simp] theorem State.takeRandom_stack : s.takeRandom.stack = s.stack := rfl
@[simp] theorem State.takeRandom_sp : s.takeRandom.sp = s.sp := rfl
@[simp] theorem State.takeRandom_dt : s.takeRandom.dt = s.dt := rfl
@[simp] theorem State.takeRandom_st : s.takeRandom.st = s.st := rfl
@[simp] theorem State.takeRandom_mem : s.takeRandom.mem = s.mem := rfl
@[simp] theorem State.takeRandom_fb : s.takeRandom.fb = s.fb := rfl
@[simp] theorem State.takeRandom_fbDirty : s.takeRandom.fbDirty = s.fbDirty := rfl
@[simp] theorem State.takeRandom_keys : s.takeRandom.keys = s.keys := rfl
@[simp] theorem State.takeRandom_status : s.takeRandom.status = s.status := rfl
@[simp] theorem State.takeRandom_fault : s.takeRandom.fault = s.fault := rfl
@[simp] theorem State.takeRandom_soundExpire : s.takeRandom.soundExpire = s.soundExpire := rfl
@[simp] theorem State.takeRandom_openDraws : s.takeRandom.openDraws = s.openDraws := rfl
@[simp] theorem State.takeRandom_frameDraws : s.takeRandom.frameDraws = s.frameDraws := rfl
@[simp] theorem State.takeRandom_keyDraws : s.takeRandom.keyDraws = s.keyDraws := rfl
@[simp] theorem State.takeRandom_randDraws : s.takeRandom.randDraws = s.randDraws.rest := rfl

/-! ### `betweenCycles` -/

@[simp] theorem State.betweenCycles_v : s.betweenCycles.v = s.v := rfl
@[simp] theorem State.betweenCycles_i : s.betweenCycles.i = s.i := rfl
@[simp] theorem State.betweenCycles_pc : s.betweenCycles.pc = s.pc := rfl
@[simp] theorem State.betweenCycles_stack : s.betweenCycles.stack = s.stack := rfl
@[simp] theorem State.betweenCycles_sp : s.betweenCycles.sp = s.sp := rfl
@[simp] theorem State.betweenCycles_dt : s.betweenCycles.dt = s.dt := rfl
@[simp] theorem State.betweenCycles_st : s.betweenCycles.st = s.st := rfl
@[simp] theorem State.betweenCycles_mem : s.betweenCycles.mem = s.mem := rfl
@[simp] theorem State.betweenCycles_fb : s.betweenCycles.fb = s.fb := rfl
@[simp] theorem State.betweenCycles_fbDirty : s.betweenCycles.fbDirty = (s.fbDirty && !s.hostReadsNow) := rfl
@[simp] theorem State.betweenCycles_keys : s.betweenCycles.keys = s.keys := rfl
@[simp] theorem State.betweenCycles_status : s.betweenCycles.status = s.status := rfl
@[simp] theorem State.betweenCycles_fault : s.betweenCycles.fault = s.fault := rfl
@[simp] theorem State.betweenCycles_soundExpire : s.betweenCycles.soundExpire = false := rfl
@[simp] theorem State.betweenCycles_openDraws : s.betweenCycles.openDraws = s.openDraws := rfl
@[simp] theorem State.betweenCycles_frameDraws : s.betweenCycles.frameDraws = s.frameDraws.rest := rfl
@[simp] theorem State.betweenCycles_keyDraws : s.betweenCycles.keyDraws = s.keyDraws := rfl
@[simp] theorem State.betweenCycles_randDraws : s.betweenCycles.randDraws = s.randDraws := rfl

/-! ### `setFlag` -/

@[simp] theorem State.setFlag_v (c : Bool) : (s.setFlag c).v = s.v.set flagReg (flagByte c) := rfl
@[simp] theorem State.setFlag_i (c : Bool) : (s.setFlag c).i = s.i := rfl
@[simp] theorem State.setFlag_pc (c : Bool) : (s.setFlag c).pc = s.pc := rfl
@[simp] theorem State.setFlag_stack (c : Bool) : (s.setFlag c).stack = s.stack := rfl
@[simp] theorem State.setFlag_sp (c : Bool) : (s.setFlag c).sp = s.sp := rfl
@[simp] theorem State.setFlag_dt (c : Bool) : (s.setFlag c).dt = s.dt := rfl
@[simp] theorem State.setFlag_st (c : Bool) : (s.setFlag c).st = s.st := rfl
@[simp] theorem State.setFlag_mem (c : Bool) : (s.setFlag c).mem = s.mem := rfl
@[simp] theorem State.setFlag_fb (c : Bool) : (s.setFlag c).fb = s.fb := rfl
@[simp] theorem State.setFlag_fbDirty (c : Bool) : (s.setFlag c).fbDirty = s.fbDirty := rfl
@[simp] theorem State.setFlag_keys (c : Bool) : (s.setFlag c).keys = s.keys := rfl
@[simp] theorem State.setFlag_status (c : Bool) : (s.setFlag c).status = s.status := rfl
@[simp] theorem State.setFlag_fault (c : Bool) : (s.setFlag c).fault = s.fault := rfl
@[simp] theorem State.setFlag_soundExpire (c : Bool) : (s.setFlag c).soundExpire = s.soundExpire := rfl
@[simp] theorem State.setFlag_openDraws (c : Bool) : (s.setFlag c).openDraws = s.openDraws := rfl
@[simp] theorem State.setFlag_frameDraws (c : Bool) : (s.setFlag c).frameDraws = s.frameDraws := rfl
@[simp] theorem State.setFlag_keyDraws (c : Bool) : (s.setFlag c).keyDraws = s.keyDraws := rfl
@[simp] theorem State.setFlag_randDraws (c : Bool) : (s.setFlag c).randDraws = s.randDraws := rfl

/-! ### `applyDraw` -/

@[simp] theorem State.applyDraw_v (ts : List Nat) : (s.applyDraw ts).v = s.v.set flagReg (flagByte (collides s.fb ts)) := rfl
@[simp] theorem State.applyDraw_i (ts : List Nat) : (s.applyDraw ts).i = s.i := rfl
@[simp] theorem State.applyDraw_pc (ts : List Nat) : (s.applyDraw ts).pc = s.pc := rfl
@[simp] theorem State.applyDraw_stack (ts : List Nat) : (s.applyDraw ts).stack = s.stack := rfl
@[simp] theorem State.applyDraw_sp (ts : List Nat) : (s.applyDraw ts).sp = s.sp := rfl
@[simp] theorem State.applyDraw_dt (ts : List Nat) : (s.applyDraw ts).dt = s.dt := rfl
@[simp] theorem State.applyDraw_st (ts : List Nat) : (s.applyDraw ts).st = s.st := rfl
@[simp] theorem State.applyDraw_mem (ts : List Nat) : (s.applyDraw ts).mem = s.mem := rfl
@[simp] theorem State.applyDraw_fb (ts : List Nat) : (s.applyDraw ts).fb = toggleCells s.fb ts := rfl
@[simp] theorem State.applyDraw_fbDirty (ts : List Nat) : (s.applyDraw ts).fbDirty = true := rfl
@[simp] theorem State.applyDraw_keys (ts : List Nat) : (s.applyDraw ts).keys = s.keys := rfl
@[simp] theorem State.applyDraw_status (ts : List Nat) : (s.applyDraw ts).status = s.status := rfl
@[simp] theorem State.applyDraw_fault (ts : List Nat) : (s.applyDraw ts).fault = s.fault := rfl
@[simp] theorem State.applyDraw_soundExpire (ts : List Nat) : (s.applyDraw ts).soundExpire = s.soundExpire := rfl
@[simp] theorem State.applyDraw_openDraws (ts : List Nat) : (s.applyDraw ts).openDraws = s.openDraws := rfl
@[simp] theorem State.applyDraw_frameDraws (ts : List Nat) : (s.applyDraw ts).frameDraws = s.frameDraws := rfl
@[simp] theorem State.applyDraw_keyDraws (ts : List Nat) : (s.applyDraw ts).keyDraws = s.keyDraws := rfl
@[simp] theorem State.applyDraw_randDraws (ts : List Nat) : (s.applyDraw ts).randDraws = s.randDraws := rfl

end Sys2Proof.Machine
end

