-- ==== Sys2Proof/Laws/Ops.lean ====
section
/-! SUPPORT. One spec lemma per shared operation: registers, fetch, countdown, digits, block loads, the sprite's targets, the
framebuffer fold, and the key choice. -/

namespace Sys2Proof.Machine

/-! ### Registers -/

theorem State.reg_setReg (s : State) (x : RegIdx) (b : Byte) (r : RegIdx) :
    (s.setReg x b).reg r = if r = x then b else s.reg r := by
  by_cases h : r = x
  · subst h; simp [State.reg, State.setReg]
  · have hv : x.val ≠ r.val := fun e => h (Fin.ext e.symm)
    simp [State.reg, State.setReg, h, hv]

/-- Two states with the same `V` read the same registers. -/
theorem State.reg_of_v_eq {s t : State} (h : t.v = s.v) (r : RegIdx) : t.reg r = s.reg r := by
  simp [State.reg, h]

theorem State.reg_setFlag (s : State) (c : Bool) (r : RegIdx) :
    (s.setFlag c).reg r = if r = flagReg then flagByte c else s.reg r := s.reg_setReg flagReg _ r

/-! ### Fetch (R55, R92) -/

theorem State.fetch_ok {s : State} (h : s.pc.toNat ≤ 4094) :
    s.fetch = .ok (wordOfBytes (s.mem.read s.pc.toNat) (s.mem.read (s.pc.toNat + 1))) := by
  have h1 : ¬ 4096 ≤ s.pc.toNat := by omega
  have h2 : ¬ 4096 ≤ s.pc.toNat + 1 := by omega
  simp [State.fetch, State.memRead, h1, h2]

theorem State.fetch_error {s : State} (h : 4094 < s.pc.toNat) :
    s.fetch = .error (.addressOutOfRange .mem (if s.pc.toNat = 4095 then 4096 else s.pc.toNat)) := by
  by_cases h1 : s.pc.toNat = 4095
  · simp [State.fetch, State.memRead, h1]
  · have h2 : 4096 ≤ s.pc.toNat := by omega
    simp [State.fetch, State.memRead, h1, h2]

/-- The fetch reads only `pc` and memory. -/
theorem State.fetch_congr {s t : State} (hp : t.pc = s.pc) (hm : t.mem = s.mem) : t.fetch = s.fetch := by
  simp [State.fetch, State.memRead, hp, hm]

/-! ### Timers (R151) -/

theorem countdown_toNat (t : Byte) : (countdown t).toNat = t.toNat - 1 := by
  unfold countdown
  split
  · next h => simp [h]
  · next h =>
    have : t.toNat ≠ 0 := fun e => h (BitVec.eq_of_toNat_eq (by simpa using e))
    have := t.isLt
    rw [BitVec.toNat_sub]
    simp
    omega

/-! ### Blocks at `I` (R54, R124) -/

theorem State.blockOutOfRange_iff (s : State) (len : Nat) :
    s.blockOutOfRange len = true ↔ 1 ≤ len ∧ 4095 < s.i.toNat + len - 1 := by
  simp [State.blockOutOfRange]

/-- `loadRegs` writes `V[0] .. V[count-1]` from memory and leaves the registers above (R123). -/
theorem loadRegs_getElem (m : Memory) (base : Nat) (v : Vector Byte 16) (count : Nat) (j : Nat) (hj : j < 16) :
    (loadRegs m base v count)[j] = if j < count then m.read (base + j) else v[j] := by
  induction count with
  | zero => rfl
  | succ k ih =>
    rw [loadRegs, Vector.getElem_setIfInBounds, ih]
    by_cases hk : k = j
    · subst hk; simp
    · by_cases hlt : j < k
      · have : j < k + 1 := by omega
        simp [hk, hlt, this]
      · have : ¬ j < k + 1 := by omega
        simp [hk, hlt, this]

/-! ### The sprite (R130 to R134) -/

theorem mem_spriteTargets {m : Memory} {base vx vy n k : Nat} :
    k ∈ spriteTargets m base vx vy n ↔
      ∃ row col, (row < n ∧ col < 8 ∧ (m.read (base + row)).getLsbD (7 - col) = true) ∧
        k = vx + col + (vy + row) * 64 := by
  simp only [spriteTargets, List.mem_flatMap, List.mem_range, rowTargets, List.mem_map, List.mem_filter, spritePixel,
    targetCell]
  constructor
  · rintro ⟨row, hr, col, ⟨hc, hb⟩, rfl⟩
    exact ⟨row, col, ⟨hr, hc, hb⟩, rfl⟩
  · rintro ⟨row, col, ⟨hr, hc, hb⟩, rfl⟩
    exact ⟨row, hr, col, ⟨hc, hb⟩, rfl⟩

/-- The targets come in strictly rising order, because a sprite row is 8 cells and the stride is 64. -/
theorem spriteTargets_rising (m : Memory) (base vx vy n : Nat) :
    (spriteTargets m base vx vy n).Pairwise (· < ·) := by
  rw [spriteTargets, List.pairwise_flatMap]
  refine ⟨fun row _ => ?_, ?_⟩
  · rw [rowTargets, List.pairwise_map]
    refine (List.pairwise_lt_range.filter _).imp ?_
    intro a b hab
    simp only [targetCell]
    omega
  · refine List.pairwise_lt_range.imp ?_
    intro a b hab k1 hk1 k2 hk2
    simp only [rowTargets, List.mem_map, List.mem_filter, List.mem_range, targetCell, Config.fbWidth] at hk1 hk2
    obtain ⟨c1, ⟨h1, _⟩, e1⟩ := hk1
    obtain ⟨c2, ⟨h2, _⟩, e2⟩ := hk2
    omega

/-- No cell is a target twice (R134). -/
theorem spriteTargets_nodup (m : Memory) (base vx vy n : Nat) : (spriteTargets m base vx vy n).Nodup :=
  (spriteTargets_rising m base vx vy n).imp (fun h => Nat.ne_of_lt h)

theorem getLsbD_toggle (fb : FrameBits) (k j : Nat) (hj : j < 2048) :
    (fb ^^^ BitVec.twoPow 2048 k).getLsbD j = (fb.getLsbD j ^^ decide (k = j)) := by
  rw [BitVec.getLsbD_xor, BitVec.getLsbD_twoPow]
  by_cases h : k = j
  · subst h; simp [hj]
  · simp [h]

/-- With no cell a target twice, the fold flips exactly the targets (R130, R136 (d)). -/
theorem getLsbD_toggleCells (ts : List Nat) (hn : ts.Nodup) (fb : FrameBits) (j : Nat) (hj : j < 2048) :
    (toggleCells fb ts).getLsbD j = (fb.getLsbD j ^^ decide (j ∈ ts)) := by
  induction ts generalizing fb with
  | nil => simp [toggleCells]
  | cons k ts ih =>
    obtain ⟨hk, hn⟩ := List.nodup_cons.mp hn
    have : toggleCells fb (k :: ts) = toggleCells (fb ^^^ BitVec.twoPow 2048 k) ts := rfl
    rw [this, ih hn, getLsbD_toggle _ _ _ hj]
    by_cases h : k = j
    · subst h; simp [hk]
    · have h' : ¬ j = k := fun e => h e.symm
      simp [h, h']

/-- The collision is judged against the framebuffer before the draw (R134). -/
theorem collides_iff (ts : List Nat) (hn : ts.Nodup) (hb : ∀ k ∈ ts, k < 2048) (fb : FrameBits) :
    collides fb ts = true ↔ ∃ k ∈ ts, fb.getLsbD k = true := by
  induction ts generalizing fb with
  | nil => simp [collides]
  | cons k ts ih =>
    obtain ⟨hk, hn⟩ := List.nodup_cons.mp hn
    have hb' : ∀ j ∈ ts, j < 2048 := fun j h => hb j (by simp [h])
    have hsame : ∀ j ∈ ts, (fb ^^^ BitVec.twoPow 2048 k).getLsbD j = fb.getLsbD j := by
      intro j hj
      have : k ≠ j := fun e => hk (e ▸ hj)
      rw [getLsbD_toggle _ _ _ (hb' j hj)]
      simp [this]
    rw [collides, Bool.or_eq_true, ih hn hb']
    simp only [List.mem_cons, exists_eq_or_imp]
    constructor
    · rintro (h | ⟨j, hj, h⟩)
      · exact .inl h
      · exact .inr ⟨j, hj, by rwa [hsame j hj] at h⟩
    · rintro (h | ⟨j, hj, h⟩)
      · exact .inl h
      · exact .inr ⟨j, hj, by rwa [hsame j hj]⟩

theorem firstOutside_none {ts : List Nat} : firstOutside ts = none ↔ ∀ k ∈ ts, k ≤ 2047 := by
  simp [firstOutside, List.find?_eq_none]
  constructor <;> intro h k hk <;> have := h k hk <;> omega

/-- On a rising list the first cell outside is the least one outside (R133 (b)). -/
theorem firstOutside_some {ts : List Nat} (hr : ts.Pairwise (· < ·)) {k : Nat} :
    firstOutside ts = some k ↔ k ∈ ts ∧ 2048 ≤ k ∧ ∀ j ∈ ts, j < k → j ≤ 2047 := by
  induction ts with
  | nil => simp [firstOutside]
  | cons a ts ih =>
    obtain ⟨ha, hr⟩ := List.pairwise_cons.mp hr
    by_cases h : 2048 ≤ a
    · have hf : firstOutside (a :: ts) = some a := by simp [firstOutside, h]
      rw [hf, Option.some_inj]
      constructor
      · rintro rfl
        refine ⟨by simp, h, fun j hj hlt => ?_⟩
        rcases List.mem_cons.mp hj with rfl | hj
        · omega
        · have := ha j hj; omega
      · rintro ⟨hk, _, hmin⟩
        rcases List.mem_cons.mp hk with rfl | hk
        · rfl
        · have := ha k hk
          have := hmin a (by simp) this
          omega
    · have hf : firstOutside (a :: ts) = firstOutside ts := by simp [firstOutside, h]
      rw [hf, ih hr]
      constructor
      · rintro ⟨hk, h1, hmin⟩
        refine ⟨by simp [hk], h1, fun j hj hlt => ?_⟩
        rcases List.mem_cons.mp hj with rfl | hj
        · omega
        · exact hmin j hj hlt
      · rintro ⟨hk, h1, hmin⟩
        rcases List.mem_cons.mp hk with rfl | hk
        · omega
        · exact ⟨hk, h1, fun j hj hlt => hmin j (by simp [hj]) hlt⟩

/-! ### Keys (R142, R143) -/

theorem newKeys_edge (before now : KeySet) (k : Nat) :
    (newKeys .edge before now).getLsbD k = true ↔ now.getLsbD k = true ∧ before.getLsbD k = false := by
  by_cases h : k < 16
  · simp [newKeys, h]
  · simp [newKeys, BitVec.getLsbD_of_ge now k (by omega)]

theorem leastKey_some {ks : KeySet} {k : Nat} :
    leastKey ks = some k ↔ k < 16 ∧ ks.getLsbD k = true ∧ ∀ j < k, ks.getLsbD j = false := by
  simp only [leastKey, List.find?_range_eq_some, Config.nKeys]
  constructor
  · rintro ⟨h1, h2, h3⟩
    exact ⟨List.mem_range.mp h2, h1, fun j hj => by simpa using h3 j hj⟩
  · rintro ⟨h1, h2, h3⟩
    exact ⟨h2, List.mem_range.mpr h1, fun j hj => by simp [h3 j hj]⟩

theorem leastKey_none {ks : KeySet} : leastKey ks = none ↔ ∀ k < 16, ks.getLsbD k = false := by
  simp [leastKey, List.find?_eq_none]

end Sys2Proof.Machine
end

