-- ==== Sys2Proof/Laws/Exec.lean ====
section
/-! SUPPORT. What an instruction can do at all, and the cases of a step: every whole-machine claim goes through these. -/

namespace Sys2Proof.Machine

/-- What no instruction touches, whatever it answers: the stack, `DT`, the latch, the output pulse and the boundary draws. -/
theorem exec_kept {ins : Instr} {s t : State} (h : exec ins s = .next t) :
    t.stack = s.stack ∧ t.sp = s.sp ∧ t.dt = s.dt ∧ t.keys = s.keys ∧ t.soundExpire = s.soundExpire ∧
      t.openDraws = s.openDraws ∧ t.frameDraws = s.frameDraws ∧ t.keyDraws = s.keyDraws := by
  cases ins <;>
    simp only [exec, execJp, execSe, execSne, execLd, execAddi, execAnd, execAdd, execLdi, execRnd, execSkp, execSknp,
      execWkey, execLdst, execLdf, execBcd, execLdm, execDrw] at h
  case drw =>
    split at h
    · cases h; simp
    · split at h <;> (cases h; simp)
  case skp => split at h <;> (cases h; simp)
  case sknp => split at h <;> (cases h; simp)
  case bcd => split at h <;> (cases h; simp)
  case ldm => split at h <;> (cases h; simp)
  all_goals cases h; simp

/-- How an instruction leaves the run: it raised, it suspended the engine (WKEY alone), or the status and `fault` stand. -/
theorem exec_status {ins : Instr} {s t : State} (h : exec ins s = .next t) :
    (∃ f, t = s.raise f) ∨ (∃ x, ins = .wkey x ∧ t = { s with status := .waitKey x }) ∨
      ((∀ x, ins ≠ .wkey x) ∧ t.status = s.status ∧ t.fault = s.fault) := by
  cases ins <;>
    simp only [exec, execJp, execSe, execSne, execLd, execAddi, execAnd, execAdd, execLdi, execRnd, execSkp, execSknp,
      execWkey, execLdst, execLdf, execBcd, execLdm, execDrw] at h
  case drw =>
    split at h
    · cases h; exact .inl ⟨_, rfl⟩
    · split at h
      · cases h; exact .inl ⟨_, rfl⟩
      · cases h; exact .inr (.inr ⟨by simp, by simp, by simp⟩)
  case wkey x => cases h; exact .inr (.inl ⟨x, rfl, rfl⟩)
  case skp =>
    split at h
    · cases h; exact .inl ⟨_, rfl⟩
    · cases h; exact .inr (.inr ⟨by simp, by simp, by simp⟩)
  case sknp =>
    split at h
    · cases h; exact .inl ⟨_, rfl⟩
    · cases h; exact .inr (.inr ⟨by simp, by simp, by simp⟩)
  case bcd =>
    split at h
    · cases h; exact .inl ⟨_, rfl⟩
    · cases h; exact .inr (.inr ⟨by simp, by simp, by simp⟩)
  case ldm =>
    split at h
    · cases h; exact .inl ⟨_, rfl⟩
    · cases h; exact .inr (.inr ⟨by simp, by simp, by simp⟩)
  all_goals cases h; exact .inr (.inr ⟨by simp, by simp, by simp⟩)

/-- Memory after an instruction: as before, or the three digits of `BCD` at `I`, inside memory (R59, R122). -/
theorem exec_mem {ins : Instr} {s t : State} (h : exec ins s = .next t) :
    t.mem = s.mem ∨ ∃ x, ins = .bcd x ∧ s.i.toNat ≤ 4093 ∧ t.mem = s.mem.store s.i.toNat (decimalDigits (s.reg x)) := by
  cases ins <;>
    simp only [exec, execJp, execSe, execSne, execLd, execAddi, execAnd, execAdd, execLdi, execRnd, execSkp, execSknp,
      execWkey, execLdst, execLdf, execBcd, execLdm, execDrw] at h
  case drw =>
    split at h
    · cases h; simp
    · split at h <;> (cases h; simp)
  case skp => split at h <;> (cases h; simp)
  case sknp => split at h <;> (cases h; simp)
  case bcd x =>
    split at h
    · cases h; simp
    · next hb =>
      cases h
      have : ¬ (1 ≤ 3 ∧ 4095 < s.i.toNat + 3 - 1) := fun e => hb ((s.blockOutOfRange_iff 3).mpr e)
      exact .inr ⟨x, rfl, by omega, rfl⟩
  case ldm => split at h <;> (cases h; simp)
  all_goals cases h; simp

/-! ### The step -/

@[simp] theorem State.cycleStart_pc (s : State) : s.cycleStart.pc = s.pc := rfl
@[simp] theorem State.cycleStart_mem (s : State) : s.cycleStart.mem = s.mem := rfl
@[simp] theorem State.betweenCycles_hostOpenNow (s : State) : s.betweenCycles.hostOpenNow = s.hostOpenNow := rfl
@[simp] theorem State.betweenCycles_keySampleNow (s : State) : s.betweenCycles.keySampleNow = s.keySampleNow := rfl

theorem decodeBytes_pair {hi lo : Byte} {ins : Instr} :
    decodeBytes [hi, lo] = .instr ins [] ↔ decode (wordOfBytes hi lo) = .instr ins := by
  simp only [decodeBytes]
  cases decode (wordOfBytes hi lo) <;> simp

/-- The two bytes at `pc` read as `ins` exactly when the fetched word decodes to it. -/
theorem fetchesInstr_iff {s : State} {ins : Instr} :
    FetchesInstr s ins ↔ s.pc.toNat ≤ 4094 ∧
      decode (wordOfBytes (s.mem.read s.pc.toNat) (s.mem.read (s.pc.toNat + 1))) = .instr ins := by
  rw [FetchesInstr, decodeBytes_pair]

/-- Everything a step can do (R90, R98). -/
theorem step_cases {s t : State} (h : step s = .next t) :
    (s.status = .running ∧ s.hostOpenNow = false ∧ t = { s.betweenCycles.takeHostOpen with status := .stopped }) ∨
    (s.status = .running ∧ s.hostOpenNow = true ∧ ∃ f, t = s.betweenCycles.cycleStart.raise f) ∨
    (s.status = .running ∧ s.hostOpenNow = true ∧ ∃ ins u, FetchesInstr s ins ∧
      exec ins s.betweenCycles.cycleStart = .next u ∧ t = u.endCycle) ∨
    (∃ x, s.status = .waitKey x ∧ t = s.betweenCycles.poll x) := by
  unfold step at h
  split at h
  · next hr =>
    unfold State.cycle at h
    rw [State.betweenCycles_hostOpenNow] at h
    split at h
    · next ho =>
      refine .inr ?_
      unfold State.fetchAndRun at h
      by_cases hp : s.pc.toNat ≤ 4094
      · rw [State.fetch_ok (s := s.betweenCycles.cycleStart) (by simpa using hp)] at h
        simp only [State.runWord] at h
        split at h
        · cases h; exact .inl ⟨hr, ho, _, rfl⟩
        · next ins hd =>
          cases he : exec ins s.betweenCycles.cycleStart with
          | next u =>
            rw [he] at h
            cases h
            exact .inr (.inl ⟨hr, ho, ins, u, fetchesInstr_iff.mpr ⟨hp, by simpa using hd⟩, he, rfl⟩)
          | fault f => rw [he] at h; cases h
          | refused r => rw [he] at h; cases h
      · rw [State.fetch_error (s := s.betweenCycles.cycleStart) (by simp; omega)] at h
        cases h
        exact .inl ⟨hr, ho, _, rfl⟩
    · next ho =>
      cases h
      exact .inl ⟨hr, by simpa using ho, rfl⟩
  · next x hx =>
    cases h
    exact .inr (.inr (.inr ⟨x, hx, rfl⟩))
  · cases h
  · cases h

/-- Everything a poll can do (R142). -/
theorem poll_cases (s : State) (x : RegIdx) :
    (s.hostOpenNow = false ∧ s.poll x = { s.takeHostOpen with status := .stopped }) ∨
    (s.hostOpenNow = true ∧ leastKey (newKeys keywaitTrigger s.keys s.keySampleNow) = none ∧
      s.poll x = s.takeHostOpen.latchKeys) ∨
    (s.hostOpenNow = true ∧ ∃ k, leastKey (newKeys keywaitTrigger s.keys s.keySampleNow) = some k ∧
      s.poll x = s.takeHostOpen.latchKeys.completeWait x k) := by
  cases ho : s.hostOpenNow
  · exact .inl ⟨rfl, by simp [State.poll, ho]⟩
  · cases hk : leastKey (newKeys keywaitTrigger s.keys s.keySampleNow) with
    | none => exact .inr (.inl ⟨rfl, rfl, by simp [State.poll, ho, hk]⟩)
    | some k => exact .inr (.inr ⟨rfl, k, rfl, by simp [State.poll, ho, hk]⟩)

end Sys2Proof.Machine
end

