-- ==== Sys2Proof/Laws/PerInstr.lean ====
section
/-! SUPPORT. Family EncodingRow: the word of an instruction has the fixed bits of its own row of the opcode map
(30_encoding.md R75), one lemma per constructor of `Instr`. -/

namespace Sys2Proof.Laws

theorem and_nibble (b : BitVec 4) : b &&& 0xF#4 = b := BitVec.and_allOnes

theorem and_byte (b : Byte) : b &&& 0xFF#8 = b := BitVec.and_allOnes

/-- Masking a word of a 4-bit-family format leaves the family nibble. -/
theorem mask_fam (f : BitVec 4) (l : BitVec 12) : (f ++ l : Word) &&& 0xF000#16 = f ++ 0#12 := by
  rw [show (0xF000#16) = (0xF#4 ++ 0#12 : Word) from rfl, BitVec.and_append]
  simp [and_nibble]

theorem mask_XNN (f : BitVec 4) (x : RegIdx) (nn : Byte) : encodeXNN f x nn &&& 0xF000 = f ++ 0#12 := by
  have : encodeXNN f x nn = f ++ (regBits x ++ nn : BitVec 12) := BitVec.append_assoc
  rw [this]
  exact mask_fam f _

theorem mask_XYN (f : BitVec 4) (x y : RegIdx) (n : BitVec 4) : encodeXYN f x y n &&& 0xF000 = f ++ 0#12 := by
  have : encodeXYN f x y n = f ++ (regBits x ++ (regBits y ++ n) : BitVec 12) := by
    simp only [encodeXYN]
    rw [BitVec.append_assoc, BitVec.append_assoc]
    rfl
  rw [this]
  exact mask_fam f _

theorem mask_XYF (f : BitVec 4) (x y : RegIdx) (n : BitVec 4) : encodeXYN f x y n &&& 0xF00F = f ++ 0#8 ++ n := by
  rw [show (0xF00F : Word) = (0xF#4 ++ 0#4 ++ 0#4 ++ 0xF#4 : Word) from rfl, encodeXYN, BitVec.and_append,
    BitVec.and_append, BitVec.and_append]
  simp only [and_nibble, BitVec.and_zero]
  have : (f ++ 0#4 ++ 0#4 : BitVec 12) = f ++ 0#8 := BitVec.append_assoc
  rw [this]

theorem mask_XFF (f : BitVec 4) (x : RegIdx) (nn : Byte) : encodeXNN f x nn &&& 0xF0FF = f ++ 0#4 ++ nn := by
  rw [show (0xF0FF : Word) = (0xF#4 ++ 0#4 ++ 0xFF#8 : Word) from rfl, encodeXNN, BitVec.and_append, BitVec.and_append]
  simp [and_nibble, and_byte]

end Sys2Proof.Laws

/-- The instruction has a row of its mnemonic in the opcode map, and its word selects that row (R75). -/
def Sys2Proof.Laws.EncodingRow.Statement (i : Sys2Proof.Instr) : Prop :=
  ∃ r ∈ Sys2Proof.opcodeTable, r.mnemonic = i.mnemonic ∧ Sys2Proof.encode i &&& r.mask = r.pattern

namespace Sys2Proof.Laws.EncodingRow

theorem jp (nnn : BitVec 12) : Statement (.jp nnn) := ⟨⟨"JP", 0xF000, 0x1000⟩, by decide, rfl, mask_fam 1 nnn⟩
theorem se (x : RegIdx) (nn : Byte) : Statement (.se x nn) := ⟨⟨"SE", 0xF000, 0x3000⟩, by decide, rfl, mask_XNN 3 x nn⟩
theorem sne (x : RegIdx) (nn : Byte) : Statement (.sne x nn) := ⟨⟨"SNE", 0xF000, 0x4000⟩, by decide, rfl, mask_XNN 4 x nn⟩
theorem ld (x : RegIdx) (nn : Byte) : Statement (.ld x nn) := ⟨⟨"LD", 0xF000, 0x6000⟩, by decide, rfl, mask_XNN 6 x nn⟩
theorem addi (x : RegIdx) (nn : Byte) : Statement (.addi x nn) := ⟨⟨"ADDI", 0xF000, 0x7000⟩, by decide, rfl, mask_XNN 7 x nn⟩
theorem and (x y : RegIdx) : Statement (.and x y) := ⟨⟨"AND", 0xF00F, 0x8002⟩, by decide, rfl, mask_XYF 8 x y 2⟩
theorem add (x y : RegIdx) : Statement (.add x y) := ⟨⟨"ADD", 0xF00F, 0x8004⟩, by decide, rfl, mask_XYF 8 x y 4⟩
theorem ldi (nnn : BitVec 12) : Statement (.ldi nnn) := ⟨⟨"LDI", 0xF000, 0xA000⟩, by decide, rfl, mask_fam 0xA nnn⟩
theorem rnd (x : RegIdx) (nn : Byte) : Statement (.rnd x nn) := ⟨⟨"RND", 0xF000, 0xC000⟩, by decide, rfl, mask_XNN 0xC x nn⟩
theorem drw (x y : RegIdx) (n : BitVec 4) : Statement (.drw x y n) := ⟨⟨"DRW", 0xF000, 0xD000⟩, by decide, rfl, mask_XYN 0xD x y n⟩
theorem skp (x : RegIdx) : Statement (.skp x) := ⟨⟨"SKP", 0xF0FF, 0xE09E⟩, by decide, rfl, mask_XFF 0xE x 0x9E⟩
theorem sknp (x : RegIdx) : Statement (.sknp x) := ⟨⟨"SKNP", 0xF0FF, 0xE0A1⟩, by decide, rfl, mask_XFF 0xE x 0xA1⟩
theorem wkey (x : RegIdx) : Statement (.wkey x) := ⟨⟨"WKEY", 0xF0FF, 0xF00A⟩, by decide, rfl, mask_XFF 0xF x 0x0A⟩
theorem ldst (x : RegIdx) : Statement (.ldst x) := ⟨⟨"LDST", 0xF0FF, 0xF018⟩, by decide, rfl, mask_XFF 0xF x 0x18⟩
theorem ldf (x : RegIdx) : Statement (.ldf x) := ⟨⟨"LDF", 0xF0FF, 0xF029⟩, by decide, rfl, mask_XFF 0xF x 0x29⟩
theorem bcd (x : RegIdx) : Statement (.bcd x) := ⟨⟨"BCD", 0xF0FF, 0xF033⟩, by decide, rfl, mask_XFF 0xF x 0x33⟩
theorem ldm (x : RegIdx) : Statement (.ldm x) := ⟨⟨"LDM", 0xF0FF, 0xF065⟩, by decide, rfl, mask_XFF 0xF x 0x65⟩

end Sys2Proof.Laws.EncodingRow
end

