-- ==== Sys2Proof/Tests/Slice0.lean ====
section
/-! SUPPORT. Tests: words written out from spec 30_encoding.md, expected results from spec 95_test_vectors.md (S1 to S9, T1 to T8),
ill-formed terms that the checks refuse, and for each statement with hypotheses a state that meets them. -/

namespace Sys2Proof.Tests

open Sys2Proof.Machine

/-- One field of an answer that is a next state. -/
def field {α : Type} (f : State → α) (r : Result) : Option α :=
  match r with
  | .next s => some (f s)
  | .fault _ => none
  | .refused _ => none

/-- A machine about to run the word `op` at `pc`, the host open. -/
def at' (op : Nat) (s : State) : State := s.withFetchWord 16 op

/-- The same with the key sample of the coming cycle. -/
def atKeys (op : Nat) (ks : KeySet) (s : State) : State := { s.withFetchWord 16 op with keyDraws := ⟨[ks], 0⟩ }

/-- A machine inside `WKEY Vx`, the latch and the sample of the coming poll given, the host open. -/
def waiting (x : RegIdx) (latch sample : KeySet) : State :=
  { State.reset with status := .waitKey x, keys := latch, openDraws := ⟨[true], 0⟩, keyDraws := ⟨[sample], 0⟩ }

/-! ### Well-formedness refuses ill-formed terms (R64, R77) -/

theorem test_wordWf_refuses_clear_screen : wordWf 0x00E0 = false := by decide
theorem test_wordWf_refuses_8xy0 : wordWf 0x8AB0 = false := by decide
theorem test_wordWf_accepts_add : wordWf 0x8AB4 = true := by decide
theorem test_imageWf_refuses_3585_bytes : imageWf (List.replicate 3585 0) = false := by rw [imageWf, List.length_replicate]; decide
theorem test_imageWf_accepts_3584_bytes : imageWf (List.replicate 3584 0) = true := by rw [imageWf, List.length_replicate]; decide
theorem test_memory_wf_refuses_unsorted : Memory.wf [(0x301, 1), (0x300, 1)] = false := by decide
theorem test_memory_wf_refuses_reset_byte : Memory.wf [(0x300, 0)] = false := by decide
theorem test_memory_wf_refuses_address_4096 : Memory.wf [(4096, 1)] = false := by decide

/-! ### Decode, one word of every constructor (T1), and reserved words (R82) -/

theorem test_decode_jp : decode 0b0001001000000100 = .instr (.jp 0x204) := by decide
theorem test_decode_se : decode 0b0011101001000010 = .instr (.se 0xA 0x42) := by decide
theorem test_decode_sne : decode 0b0100000000000001 = .instr (.sne 0 1) := by decide
theorem test_decode_ld : decode 0b0110001111111110 = .instr (.ld 3 0xFE) := by decide
theorem test_decode_addi : decode 0b0111000011111111 = .instr (.addi 0 0xFF) := by decide
theorem test_decode_and : decode 0b1000001100010010 = .instr (.and 3 1) := by decide
theorem test_decode_add : decode 0b1000001100100100 = .instr (.add 3 2) := by decide
theorem test_decode_ldi : decode 0b1010001100000000 = .instr (.ldi 0x300) := by decide
theorem test_decode_rnd : decode 0b1100000100001111 = .instr (.rnd 1 0x0F) := by decide
theorem test_decode_drw : decode 0b1101000100100101 = .instr (.drw 1 2 5) := by decide
theorem test_decode_skp : decode 0b1110000010011110 = .instr (.skp 0) := by decide
theorem test_decode_sknp : decode 0b1110000110100001 = .instr (.sknp 1) := by decide
theorem test_decode_wkey : decode 0b1111000100001010 = .instr (.wkey 1) := by decide
theorem test_decode_ldst : decode 0b1111001100011000 = .instr (.ldst 3) := by decide
theorem test_decode_ldf : decode 0b1111000000101001 = .instr (.ldf 0) := by decide
theorem test_decode_bcd : decode 0b1111000000110011 = .instr (.bcd 0) := by decide
theorem test_decode_ldm : decode 0b1111001001100101 = .instr (.ldm 2) := by decide
theorem test_decode_family0 : decode 0x00E0 = .unsupported 0x00E0 := by decide
theorem test_decode_family5 : decode 0x5120 = .unsupported 0x5120 := by decide
theorem test_decode_8xyF : decode 0x831F = .unsupported 0x831F := by decide
theorem test_decode_E09F : decode 0xE09F = .unsupported 0xE09F := by decide
theorem test_decode_F055 : decode 0xF055 = .unsupported 0xF055 := by decide
theorem test_decode_bytes_big_endian : decodeBytes [0xD1, 0x25, 0x00] = .instr (.drw 1 2 5) [0x00] := by decide
theorem test_decode_bytes_truncated : decodeBytes [0xD1] = .truncated := by decide
theorem test_encode_drw : encode (.drw 1 2 5) = 0xD125 := by decide
theorem test_table_word_ldm : decodeTableWord 16 0xF265 = some (.ldm 2) := by decide

/-! ### One step from a small state (S1 to S9, T2 to T8) -/

theorem test_jp_odd_target : field State.pc (step (at' 0x1201 .reset)) = some 0x201 := by decide
theorem test_se_skips : field State.pc (step (at' 0x3A42 (State.reset.setReg 0xA 0x42))) = some 0x204 := by decide
theorem test_se_falls_through : field State.pc (step (at' 0x3A42 (State.reset.setReg 0xA 0x43))) = some 0x202 := by decide
theorem test_sne_on_flag : field State.pc (step (at' 0x4F01 (State.reset.setReg 0xF 1))) = some 0x202 := by decide
theorem test_ld_flag_register : field (State.reg · 0xF) (step (at' 0x6FFF .reset)) = some 0xFF := by decide
theorem test_addi_wraps : field (State.reg · 3) (step (at' 0x730A (State.reset.setReg 3 250))) = some 4 := by decide
theorem test_addi_keeps_flag : field (State.reg · 0xF) (step (at' 0x730A ((State.reset.setReg 3 250).setReg 0xF 0x55))) = some 0x55 := by decide
theorem test_and : field (State.reg · 3) (step (at' 0x8312 ((State.reset.setReg 3 2).setReg 1 3))) = some 2 := by decide
theorem test_add_carry : field (State.reg · 0xF) (step (at' 0x8324 ((State.reset.setReg 3 0xFE).setReg 2 4))) = some 1 := by decide
theorem test_add_flag_destination : field (State.reg · 0xF) (step (at' 0x8F14 ((State.reset.setReg 0xF 0xF0).setReg 1 0x20))) = some 1 := by decide
theorem test_ldi : field State.i (step (at' 0xAFFF .reset)) = some 0x0FFF := by decide
theorem test_rnd_masks : field (State.reg · 1) (step (at' 0xC10F { State.reset with randDraws := ⟨[0xA7], 0⟩ })) = some 0x07 := by decide
theorem test_skp_held : field State.pc (step (atKeys 0xE09E 0x0080 (State.reset.setReg 0 7))) = some 0x204 := by decide
theorem test_skp_index_16_faults : field State.fault (step (atKeys 0xE09E 0 (State.reset.setReg 0 0x10))) =
    some (some (.addressOutOfRange .key 16)) := by decide
theorem test_sknp_not_held : field State.pc (step (atKeys 0xE0A1 0 (State.reset.setReg 0 7))) = some 0x204 := by decide
theorem test_sknp_index_255_faults : field State.fault (step (atKeys 0xE0A1 0 (State.reset.setReg 0 0xFF))) =
    some (some (.addressOutOfRange .key 255)) := by decide
theorem test_wkey_suspends : field State.status (step (atKeys 0xF10A 0 .reset)) = some (.waitKey 1) := by decide
theorem test_wkey_lowest_new_key : field (State.reg · 1) (step (waiting 1 0x0000 0x0090)) = some 4 := by decide
theorem test_wkey_held_key_is_not_new : field (State.reg · 1) (step (waiting 1 0x0080 0x0084)) = some 2 := by decide
theorem test_ldst_same_cycle_tick : field State.st (step (at' 0xF318 (State.reset.setReg 3 3))) = some 2 := by decide
theorem test_ldst_one_expires : field State.soundExpire (step (at' 0xF318 (State.reset.setReg 3 1))) = some true := by decide
theorem test_ldf_not_masked : field State.i (step (at' 0xF029 (State.reset.setReg 0 0xFF))) = some 0x04FB := by decide
theorem test_bcd_last_base : field (fun s => s.mem) (step (at' 0xF033 ((State.reset.setReg 0 255).setI 0xFFD))) =
    some [(0x200, 0xF0), (0x201, 0x33), (0xFFD, 2), (0xFFE, 5), (0xFFF, 5)] := by decide
theorem test_bcd_past_memory : field State.fault (step (at' 0xF033 (State.reset.setI 0xFFE))) =
    some (some (.addressOutOfRange .mem 4096)) := by decide
theorem test_ldm_glyph0 : field (fun s => (s.reg 0, s.reg 3, s.reg 4, s.reg 5)) (step (at' 0xF465 (State.reset.setReg 5 0x55))) =
    some (0xF0, 0x90, 0xF0, 0x55) := by decide
theorem test_ldm_past_memory : field State.fault (step (at' 0xF165 (State.reset.setI 0xFFF))) =
    some (some (.addressOutOfRange .mem 4096)) := by decide
theorem test_drw_targets_glyph0 : ((State.reset.setReg 1 2).setReg 2 3).drawTargets 1 2 5 =
    [194, 195, 196, 197, 258, 261, 322, 325, 386, 389, 450, 451, 452, 453] := by decide
theorem test_drw_spills_to_next_row : (State.reset.setReg 0 62).drawTargets 0 1 1 = [62, 63, 64, 65] := by decide
theorem test_drw_past_framebuffer : field State.fault (step (at' 0xD012 (State.reset.setReg 1 31))) =
    some (some (.addressOutOfRange .fb 2048)) := by decide
theorem test_drw_empty_sets_dirty : field (fun s => (s.reg 0xF, s.fbDirty)) (step (at' 0xD000 (State.reset.setReg 0xF 7))) =
    some (0, true) := by decide
theorem test_unsupported_names_the_word : field State.fault (step (at' 0x00E0 .reset)) =
    some (some (.unsupportedInstruction 0x00E0)) := by decide
theorem test_fetch_4095 : field State.fault (step { State.reset with pc := 0xFFF, openDraws := ⟨[true], 0⟩ }) =
    some (some (.addressOutOfRange .mem 4096)) := by decide
theorem test_fetch_4098 : field State.fault (step { State.reset with pc := 0x1002, openDraws := ⟨[true], 0⟩ }) =
    some (some (.addressOutOfRange .mem 4098)) := by decide
theorem test_load_places_image : ((State.boot [0x12, 0x00]).mem.read 0x200, (State.boot [0x12, 0x00]).mem.read 0x202) = (0x12, 0) := by decide
theorem test_fault_codes : (FaultRecord.addressOutOfRange .fb 0).code = 1 ∧ (FaultRecord.unsupportedInstruction 0).code = 2 ∧
    (FaultRecord.imageTooLarge 0).code = 3 := by decide
theorem test_host_reads_frame : field State.fbDirty (step (at' 0x1200 { State.reset with fbDirty := true, frameDraws := ⟨[true], 0⟩ })) =
    some false := by decide

/-! ### Witnesses: for each statement with hypotheses, inputs that meet them all, each clause at a boundary -/

/-- What `DRW` covers, as the list of its targets, so that a concrete sprite is decided. -/
theorem covers_iff_mem (s : State) (x y : RegIdx) (n : BitVec 4) (k : Nat) :
    Covers s x y n k ↔ k ∈ s.drawTargets x y n := by
  rw [State.drawTargets, mem_spriteTargets]
  rfl

theorem covers_bound {s : State} {x y : RegIdx} {n : BitVec 4} (h : ∀ k ∈ s.drawTargets x y n, k ≤ 2047) :
    ∀ k, Covers s x y n k → k ≤ 2047 := fun k hk => h k ((covers_iff_mem s x y n k).mp hk)

/-- Glyph 0 on the bottom row, one row high (T5.6). -/
def bottomRow : State := State.reset.setReg 1 31

theorem witness_EncodeInvertsDecode : decode 0x8AB4 = .instr (.add 0xA 0xB) := by decide
/-- One word of each format, every operand bit set, and one with `y` and `n` apart from `x`. -/
theorem witness_OperandsStandInTheirFields : decode 0x1FFF = .instr (.jp 0xFFF) ∧ decode 0xCFFF = .instr (.rnd 0xF 0xFF) ∧
    decode 0xDFFF = .instr (.drw 0xF 0xF 0xF) ∧ decode 0x8AB4 = .instr (.add 0xA 0xB) ∧ decode 0xFF65 = .instr (.ldm 0xF) ∧
    0xD125 = encode (.drw 1 2 5) := by decide
theorem witness_LoaderCopiesImage : ([] : List Byte).length ≤ 3584 ∧ (List.replicate 3584 (1 : Byte)).length ≤ 3584 := by
  rw [List.length_replicate]; decide
theorem witness_LoaderRejectsLongImage : 3584 < (List.replicate 3585 (0 : Byte)).length := by
  rw [List.length_replicate]; decide
theorem witness_CanonicalMemoriesEqual : Memory.wf (Memory.write [] 0xFFF 7) = true ∧
    ∀ a, (Memory.write [] 0xFFF 7).read a = (Memory.write [] 0xFFF 7).read a := ⟨by decide, fun _ => rfl⟩
theorem witness_FetchIsBigEndian : ({ State.reset with pc := 4094 } : State).pc.toNat ≤ 4094 := by decide
theorem witness_StoredDigitsAreFetched : ∃ t u : State, (State.reset.setI 4093).i.toNat ≤ 4093 ∧
    exec (.bcd 0) (State.reset.setI 4093) = .next t ∧ u.mem = t.mem ∧ u.pc = (State.reset.setI 4093).i :=
  ⟨_, { State.reset with mem := ((State.reset.setI 4093).storeBytes 4093 [0, 0, 0]).mem, pc := 4093 }, by decide, rfl, by decide, rfl⟩
theorem witness_PcTakesOnlyTheseValues : State.reset.status = .running ∧ State.reset.pc.toNat ≤ 4094 ∧
    (∀ ins ∈ [Instr.jp 0xFFF, .se 0 0, .wkey 0, .ld 0 1, .ldm 15, .bcd 0],
      field (fun t => t.status == .halted) (exec ins State.reset) = some false) := by decide
theorem witness_AddStoresSumAndCarry : (0 : RegIdx) ≠ flagReg := by decide
theorem witness_RndMasksOneDraw : (0x07 : Byte) &&& ~~~0x0F = 0 := by decide
theorem witness_BcdStoresDigits : (State.reset.setI 4093).i.toNat + 2 ≤ 4095 := by decide
theorem witness_LdmLoadsRegisterBlock : (State.reset.setI 0xFF0).i.toNat + (15 : RegIdx).val ≤ 4095 ∧
    4095 < (State.reset.setI 0xFF1).i.toNat + (15 : RegIdx).val := by decide
theorem witness_BlockPastMemoryHalts : 4095 < (State.reset.setI 4094).i.toNat + 2 ∧ 1 ≤ (3 : BitVec 4).toNat ∧
    4095 < (State.reset.setI 0xFFE).i.toNat + (3 : BitVec 4).toNat - 1 := by decide
theorem witness_DrwXorsSprite : RowsInMemory bottomRow 1 ∧ (∀ k, Covers bottomRow 0 1 1 k → k ≤ 2047) ∧
    Covers bottomRow 0 1 1 1984 ∧ RowsInMemory (State.reset.setI 4095) 1 ∧ RowsInMemory State.reset 0 :=
  ⟨.inr (by decide), covers_bound (by decide), (covers_iff_mem ..).mpr (by decide), .inr (by decide), .inl rfl⟩
theorem witness_DrwPixelOutsideHalts : RowsInMemory bottomRow 2 ∧ SpriteBit bottomRow 2 1 0 ∧
    2047 < spriteCell bottomRow 0 1 1 0 ∧
    (∀ r c, SpriteBit bottomRow 2 r c → (r < 1 ∨ r = 1 ∧ c < 0) → spriteCell bottomRow 0 1 r c ≤ 2047) := by
  refine ⟨.inr (by decide), ⟨by decide, by decide, by decide⟩, by decide, ?_⟩
  rintro r c ⟨_, hc, _⟩ hr
  have hx : (bottomRow.reg 0).toNat = 0 := by decide
  have hy : (bottomRow.reg 1).toNat = 31 := by decide
  rw [spriteCell, hx, hy]
  omega
theorem witness_DrwTwiceRestoresFramebuffer : (0 : RegIdx) ≠ flagReg ∧ RowsInMemory State.reset 5 ∧
    (∀ k, Covers State.reset 0 0 5 k → k ≤ 2047) ∧ State.reset.fb = 0 :=
  ⟨by decide, .inr (by decide), covers_bound (by decide), rfl⟩

/-- The reset state with any framebuffer and any answers of the host meets the invariant. -/
theorem inv_of_reset_fields (fb : FrameBits) (d : Draws Bool) :
    State.Inv { State.reset with fb := fb, openDraws := d } where
  memCanonical := rfl
  indexInMemory := fun _ => by show State.reset.i.toNat ≤ 4095; decide
  pcRunning := fun _ => by show State.reset.pc.toNat ≤ 4098; decide
  pcWaiting := fun _ h => nomatch (show Status.running = .waitKey _ from h)
  delayZero := fun _ => rfl
  soundBelow255 := fun _ => by show State.reset.st.toNat ≤ 254; decide
  stackInert := fun _ => ⟨rfl, rfl⟩
  noFault := fun _ => rfl
  faultRecorded := fun h => nomatch (show Status.running = .halted from h)

theorem witness_SecondDrawAlwaysCollides : ∃ s t u : State, s.Inv ∧ s.status = .running ∧ (0 : RegIdx) ≠ flagReg ∧
    RowsInMemory s 0 ∧ (∀ k, Covers s 0 0 0 k → k ≤ 2047) ∧ exec (.drw 0 0 0) s = .next t ∧ exec (.drw 0 0 0) t = .next u :=
  ⟨{ State.reset with fb := 0xF }, _, _, inv_of_reset_fields 0xF _, rfl, by decide, .inl rfl, covers_bound (by decide), rfl, rfl⟩
theorem witness_KeySkipsFollowTheLatch : ((State.reset.setReg 0 15).reg 0).toNat ≤ 15 := by decide
theorem witness_KeyIndexOutsideHalts : 15 < ((State.reset.setReg 0 16).reg 0).toNat := by decide
theorem witness_WkeySuspendsThenStoresKey : (waiting 1 0 0x8000).status = .waitKey 1 ∧ (waiting 1 0 0x8000).hostOpenNow = true ∧
    NewlyPressed (waiting 1 0 0x8000).keys (waiting 1 0 0x8000).keySampleNow 15 ∧
    ∀ j, j < 15 → ¬ NewlyPressed (waiting 1 0 0x8000).keys (waiting 1 0 0x8000).keySampleNow j := by
  refine ⟨rfl, rfl, ⟨by decide, by decide⟩, fun j hj h => ?_⟩
  have hall : ∀ j < 15, (waiting 1 0 0x8000).keySampleNow.getLsbD j = false := by decide
  exact Bool.noConfusion ((hall j hj).symm.trans h.1)
theorem witness_PollWithoutNewKeyWaits : (waiting 1 0x80 0x80).status = .waitKey 1 ∧ (waiting 1 0x80 0x80).hostOpenNow = true ∧
    ∀ k, k < 16 → ¬ NewlyPressed (waiting 1 0x80 0x80).keys (waiting 1 0x80 0x80).keySampleNow k := by
  refine ⟨rfl, rfl, fun k hk h => ?_⟩
  exact Bool.noConfusion (h.1.symm.trans h.2)
theorem witness_NewKeyUnderBothTriggers : (15 : Nat) < 16 := by decide

/-- A step that is a next state, for the statements about `step s = next t`: a completed cycle, a closed host, a suspension, a
fetched LDST and a completing poll. -/
theorem witness_OneTickPerCompletedCycle :
    field State.status (step (at' 0x1200 .reset)) = some .running ∧
    field State.status (step { State.reset with openDraws := ⟨[false], 0⟩ }) = some .stopped ∧
    field State.status (step (at' 0xF10A .reset)) = some (.waitKey 1) ∧
    (at' 0xF318 .reset).status = .running ∧ FetchesInstr (at' 0xF318 .reset) (.ldst 3) ∧
    field State.status (step (at' 0xF318 .reset)) = some .running ∧
    field State.status (step (waiting 1 0 1)) = some .running :=
  ⟨by decide, by decide, by decide, rfl, ⟨by decide, by decide⟩, by decide, by decide⟩
theorem witness_SoundExpireMarksOneToZero :
    field State.soundExpire (step (at' 0x1200 { State.reset with st := 1 })) = some true ∧
    field State.status (step (at' 0xF318 (State.reset.setReg 3 1))) = some .running := by decide
theorem witness_StepRunsDecodedInstruction : (at' 0x1204 .reset).status = .running ∧ (at' 0x1204 .reset).hostOpenNow = true ∧
    FetchesInstr (at' 0x1204 .reset) (.jp 0x204) ∧
    exec (.jp 0x204) (at' 0x1204 .reset).betweenCycles.cycleStart =
      .next ((at' 0x1204 .reset).betweenCycles.cycleStart.jump 0x204) :=
  ⟨rfl, rfl, ⟨by decide, by decide⟩, rfl⟩
theorem witness_LatchReplacedAtEverySample : (at' 0x1200 .reset).hostOpenNow = true ∧
    field State.status (step (at' 0x1200 .reset)) = some .running := by decide
theorem witness_ClosedHostStopsTheRun : ({ State.reset with openDraws := ⟨[false], 0⟩ } : State).Live ∧
    ({ State.reset with openDraws := ⟨[false], 0⟩ } : State).hostOpenNow = false ∧
    ({ waiting 1 0 0 with openDraws := ⟨[false], 0⟩ } : State).Live := ⟨.inl rfl, rfl, .inr ⟨1, rfl⟩⟩
theorem witness_FetchPastMemoryHalts : 4094 < ({ State.reset with pc := 4095, openDraws := ⟨[true], 0⟩ } : State).pc.toNat ∧
    4094 < ({ State.reset with pc := 4096, openDraws := ⟨[true], 0⟩ } : State).pc.toNat ∧
    ({ State.reset with pc := 4095, openDraws := ⟨[true], 0⟩ } : State).hostOpenNow = true := by decide
theorem witness_UnmatchedWordHalts : (at' 0x00E0 .reset).status = .running ∧ (at' 0x00E0 .reset).hostOpenNow = true ∧
    (0x00E0 : Word) = wordOfBytes ((at' 0x00E0 .reset).mem.read (at' 0x00E0 .reset).pc.toNat)
      ((at' 0x00E0 .reset).mem.read ((at' 0x00E0 .reset).pc.toNat + 1)) ∧
    ∀ r ∈ opcodeTable, (0x00E0 : Word) &&& r.mask ≠ r.pattern := by decide
theorem witness_StepEndsOnlyWhenRunIsOver : State.reset.Live ∧ (waiting 3 0 0).Live ∧
    (State.reset.raise blockFault).status = .halted ∧ ({ State.reset with status := .stopped } : State).status = .stopped :=
  ⟨.inl rfl, .inr ⟨3, rfl⟩, rfl, rfl⟩
theorem witness_OnlyDrwChangesFramebuffer : field (fun t => (t.status == .halted, t.fb.getLsbD 0)) (step (at' 0xD001 .reset)) =
    some (false, true) ∧ (at' 0xD001 .reset).fb.getLsbD 0 = false := by decide +kernel
theorem witness_OnlyBcdChangesMemory :
    field (fun t => (t.status == .halted, t.mem.read 0x300)) (step (at' 0xF033 ((State.reset.setReg 0 200).setI 0x300))) =
      some (false, 2) ∧ (at' 0xF033 ((State.reset.setReg 0 200).setI 0x300)).mem.read 0x300 = 0 := by decide
theorem witness_FlagWrittenOnlyByAddAndDrw :
    (∀ ins ∈ [Instr.add 0 0, .ld 15 1, .ldm 15], field (fun t => t.reg 15 == 0) (exec ins (State.reset.setReg 0 0x80)) = some false) := by
  decide
theorem witness_SpecialRegistersHaveOnlyTheirWriters : field State.i (exec (.ldi 5) State.reset) = some 5 ∧
    field State.st (exec (.ldst 0) (State.reset.setReg 0 9)) = some 9 := by decide
theorem witness_OnlyWkeySuspends : field State.status (step (at' 0xF10A .reset)) = some (.waitKey 1) ∧
    field State.status (step (waiting 1 0 0)) = some (.waitKey 1) := by decide
theorem witness_DirtySetByDrawClearedByHost : FetchesInstr (at' 0xD000 .reset) (.drw 0 0 0) ∧
    field State.status (step (at' 0xD000 .reset)) = some .running ∧
    ¬ ({ State.reset with openDraws := ⟨[false], 0⟩ } : State).hostOpenNow = true :=
  ⟨⟨by decide, by decide⟩, by decide, by decide⟩
theorem witness_StackIsUnobservable : field State.status (step (at' 0x1200 .reset)) = some .running := by decide
theorem witness_InputsReachOnlyTheirReaders : field State.status (exec (.ld 0 1) State.reset) = some .running ∧
    (∀ x, Instr.ld 0 1 ≠ .skp x ∧ Instr.ld 0 1 ≠ .sknp x) ∧ ∀ x nn, Instr.ld 0 1 ≠ .rnd x nn :=
  ⟨by decide, fun _ => ⟨nofun, nofun⟩, fun _ _ => nofun⟩
theorem witness_TimersAreWriteOnly : field State.status (exec (.ldst 0) State.reset) = some .running := by decide
theorem witness_StepKeepsInvariant : ∃ s t : State, s.Inv ∧ step s = .next t ∧ t.status = .stopped :=
  ⟨{ State.reset with openDraws := ⟨[false], 0⟩ }, _, inv_of_reset_fields 0 ⟨[false], 0⟩, rfl, rfl⟩

end Sys2Proof.Tests
end

/-! PROOFS. The statements of 10_state.md: what each instruction and each step does to the elements of state, and the
machine's invariant. -/

namespace Sys2Proof.Machine

/-! ### The normal form of `exec`: a check, then a fault or one effect (R94, R165) -/

/-- The fault an instruction raises in a state, if its checks find one (R161). -/
def State.faultOf (s : State) : Instr → Option FaultRecord
  | .drw x y n =>
    if s.blockOutOfRange n.toNat then some blockFault
    else (firstOutside (s.drawTargets x y n)).map (.addressOutOfRange .fb)
  | .skp x | .sknp x => if keyOutOfRange (s.reg x) then some (keyFault (s.reg x)) else none
  | .bcd _ => if s.blockOutOfRange 3 then some blockFault else none
  | .ldm x => if s.blockOutOfRange (x.val + 1) then some blockFault else none
  | _ => none

/-- The state an instruction leaves when its checks pass. -/
def State.effectOf (s : State) : Instr → State
  | .jp nnn => s.jump (nnn.setWidth 16)
  | .se x nn => s.skipIf (s.reg x == nn)
  | .sne x nn => s.skipIf (s.reg x != nn)
  | .ld x nn => (s.setReg x nn).advance
  | .addi x nn => (s.setReg x (s.reg x + nn)).advance
  | .and x y => (s.setReg x (s.reg x &&& s.reg y)).advance
  | .add x y => ((s.setReg x (s.reg x + s.reg y)).setFlag (carryOut (s.reg x) (s.reg y))).advance
  | .ldi nnn => (s.setI (nnn.setWidth 16)).advance
  | .rnd x nn => (s.takeRandom.setReg x (nn &&& s.randomByteNow)).advance
  | .drw x y n => (s.applyDraw (s.drawTargets x y n)).advance
  | .skp x => s.skipIf (s.keyHeld (s.reg x))
  | .sknp x => s.skipIf (!s.keyHeld (s.reg x))
  | .wkey x => { s with status := .waitKey x }
  | .ldst x => (s.setSt (s.reg x)).advance
  | .ldf x => (s.setI ((s.reg x).setWidth 16 * BitVec.ofNat 16 Config.glyphBytes)).advance
  | .bcd x => (s.storeBytes s.i.toNat (decimalDigits (s.reg x))).advance
  | .ldm x => { s with v := loadRegs s.mem s.i.toNat s.v (x.val + 1), pc := s.pc + 2 }

/-- Every instruction either raises what its checks find or has its effect; the checks come before any effect (R165). -/
theorem exec_eq (ins : Instr) (s : State) :
    exec ins s = .next ((s.faultOf ins).elim (s.effectOf ins) s.raise) := by
  cases ins with
  | drw x y n =>
    simp only [exec, execDrw, State.faultOf, State.effectOf]
    split
    · rfl
    · cases firstOutside (s.drawTargets x y n) <;> rfl
  | skp x => simp only [exec, execSkp, State.faultOf, State.effectOf]; split <;> rfl
  | sknp x => simp only [exec, execSknp, State.faultOf, State.effectOf]; split <;> rfl
  | bcd x => simp only [exec, execBcd, State.faultOf, State.effectOf]; split <;> rfl
  | ldm x => simp only [exec, execLdm, State.faultOf, State.effectOf]; split <;> rfl
  | _ => rfl

/-- An instruction that answers `t` raised a fault, or `t` is its effect. -/
theorem exec_cases {ins : Instr} {s t : State} (h : exec ins s = .next t) :
    (∃ f, t = s.raise f) ∨ t = s.effectOf ins := by
  rw [exec_eq] at h
  cases hf : s.faultOf ins with
  | none => rw [hf] at h; cases h; exact .inr rfl
  | some f => rw [hf] at h; cases h; exact .inl ⟨f, rfl⟩

/-- An instruction that raised no fault has its effect. -/
theorem eq_effectOf_of_exec {ins : Instr} {s t : State} (h : exec ins s = .next t) (hn : t.status ≠ .halted) :
    t = s.effectOf ins := by
  obtain ⟨f, rfl⟩ | ht := exec_cases h
  · exact absurd rfl hn
  · exact ht

/-! ### What the effect of an instruction changes -/

/-- Only the draw touches the framebuffer and `fb_dirty` (R29, R30). -/
theorem State.effectOf_fb_fbDirty {ins : Instr} (h : ∀ x y n, ins ≠ .drw x y n) (s : State) :
    (s.effectOf ins).fb = s.fb ∧ (s.effectOf ins).fbDirty = s.fbDirty := by
  cases ins with
  | drw x y n => exact absurd rfl (h x y n)
  | _ => exact ⟨rfl, rfl⟩

theorem State.effectOf_i_ne {ins : Instr} {s : State} (h : (s.effectOf ins).i ≠ s.i) :
    (∃ nnn, ins = .ldi nnn) ∨ ∃ x, ins = .ldf x := by
  cases ins with
  | ldi nnn => exact .inl ⟨nnn, rfl⟩
  | ldf x => exact .inr ⟨x, rfl⟩
  | _ => exact absurd rfl h

theorem State.effectOf_st_ne {ins : Instr} {s : State} (h : (s.effectOf ins).st ≠ s.st) : ∃ x, ins = .ldst x := by
  cases ins with
  | ldst x => exact ⟨x, rfl⟩
  | _ => exact absurd rfl h

/-- A register write that changes register `r` was a write to `r`. -/
theorem State.eq_of_setReg_reg_ne {s : State} {x r : RegIdx} {b : Byte} (h : (s.setReg x b).reg r ≠ s.reg r) : x = r := by
  rw [State.reg_setReg] at h
  by_contra hx
  exact h (if_neg (Ne.symm hx))

/-- Registers above the block that `LDM` loads stay (R123). -/
theorem State.effectOf_ldm_reg {s : State} {x r : RegIdx} (h : x.val < r.val) : (s.effectOf (.ldm x)).reg r = s.reg r :=
  (loadRegs_getElem s.mem s.i.toNat s.v (x.val + 1) r.val r.isLt).trans (if_neg (by omega))

/-- A 12-bit operand as an address is its own value. -/
theorem address_toNat (nnn : BitVec 12) : (nnn.setWidth 16).toNat = nnn.toNat :=
  BitVec.toNat_setWidth_of_le (by decide)

/-- The glyph address of `LDF` is exact, since 255 * 5 is below 2^16 (R121). -/
theorem glyphAddress_toNat (b : Byte) : (b.setWidth 16 * BitVec.ofNat 16 Config.glyphBytes).toNat = b.toNat * 5 := by
  have hb := b.isLt
  have hw : (b.setWidth 16).toNat = b.toNat := BitVec.toNat_setWidth_of_le (by decide)
  rw [BitVec.toNat_mul, hw]
  exact Nat.mod_eq_of_lt (by simp; omega)

/-- The bound on `I` of R41: `LDI` writes 12 bits, `LDF` at most 255 * 5. -/
theorem State.effectOf_i_le {s : State} (ins : Instr) (h : s.i.toNat ≤ 4095) : (s.effectOf ins).i.toNat ≤ 4095 := by
  cases ins with
  | ldi nnn =>
    have := nnn.isLt
    rw [State.effectOf, State.advance_i, State.setI_i, address_toNat]
    omega
  | ldf x =>
    have := (s.reg x).isLt
    rw [State.effectOf, State.advance_i, State.setI_i, glyphAddress_toNat]
    omega
  | _ => exact h

theorem State.advance_pc_toNat {s : State} (h : s.pc.toNat ≤ 4094) : s.advance.pc.toNat = s.pc.toNat + 2 := by
  rw [State.advance_pc]
  bv_omega

theorem State.skipIf_pc_le {s : State} (h : s.pc.toNat ≤ 4094) (c : Bool) : (s.skipIf c).pc.toNat ≤ 4098 := by
  cases c with
  | false => rw [State.skipIf_pc, if_neg Bool.false_ne_true]; bv_omega
  | true => rw [State.skipIf_pc, if_pos rfl]; bv_omega

/-- The bound on `pc` of R41: from a fetchable address, a jump lands in 12 bits and a skip adds at most 4. -/
theorem State.effectOf_pc_le {s : State} (ins : Instr) (h : s.pc.toNat ≤ 4094) : (s.effectOf ins).pc.toNat ≤ 4098 := by
  have hadv : (s.pc + 2).toNat ≤ 4098 := by
    rw [← State.advance_pc, State.advance_pc_toNat h]
    omega
  cases ins with
  | jp nnn =>
    have := nnn.isLt
    rw [State.effectOf, State.jump_pc, address_toNat]
    omega
  | se | sne | skp | sknp => exact State.skipIf_pc_le h _
  | wkey => exact h.trans (by decide)
  | _ => exact hadv

/-! ### The end of a cycle, and a poll -/

/-- The end of a cycle ticks the timers or does nothing, so whatever the tick keeps it keeps. -/
theorem State.endCycle_keeps {α : Type} (g : State → α) (h : ∀ s : State, g s.timerTick = g s) (s : State) :
    g s.endCycle = g s := by
  unfold State.endCycle
  split
  · exact h s
  · rfl

@[simp] theorem State.endCycle_fb (s : State) : s.endCycle.fb = s.fb := State.endCycle_keeps _ (fun _ => rfl) s
@[simp] theorem State.endCycle_fbDirty (s : State) : s.endCycle.fbDirty = s.fbDirty := State.endCycle_keeps _ (fun _ => rfl) s
@[simp] theorem State.endCycle_keys (s : State) : s.endCycle.keys = s.keys := State.endCycle_keeps _ (fun _ => rfl) s
@[simp] theorem State.endCycle_status (s : State) : s.endCycle.status = s.status := State.endCycle_keeps _ (fun _ => rfl) s
@[simp] theorem State.endCycle_keyDraws (s : State) : s.endCycle.keyDraws = s.keyDraws :=
  State.endCycle_keeps _ (fun _ => rfl) s

theorem State.poll_closed {s : State} (ho : s.hostOpenNow = false) (x : RegIdx) :
    s.poll x = { s.takeHostOpen with status := .stopped } := by
  simp [State.poll, ho]

theorem State.poll_waits {s : State} (ho : s.hostOpenNow = true)
    (hk : leastKey (newKeys keywaitTrigger s.keys s.keySampleNow) = none) (x : RegIdx) :
    s.poll x = s.takeHostOpen.latchKeys := by
  simp [State.poll, ho, hk]

theorem State.poll_completes {s : State} {k : Nat} (ho : s.hostOpenNow = true)
    (hk : leastKey (newKeys keywaitTrigger s.keys s.keySampleNow) = some k) (x : RegIdx) :
    s.poll x = s.takeHostOpen.latchKeys.completeWait x k := by
  simp [State.poll, ho, hk]

/-- A poll leaves the framebuffer and `fb_dirty` alone, whatever it answers. -/
theorem State.poll_fb_fbDirty (s : State) (x : RegIdx) : (s.poll x).fb = s.fb ∧ (s.poll x).fbDirty = s.fbDirty := by
  obtain ⟨-, h⟩ | ⟨-, -, h⟩ | ⟨-, k, -, h⟩ := poll_cases s x <;> (rw [h]; exact ⟨rfl, rfl⟩)

/-- A poll with the host open latches one sample, whether or not the wait completes (R142). -/
theorem State.poll_keys {s : State} (ho : s.hostOpenNow = true) (x : RegIdx) :
    (s.poll x).keys = s.keySampleNow ∧ (s.poll x).keyDraws = s.keyDraws.rest := by
  obtain ⟨hc, -⟩ | ⟨-, -, h⟩ | ⟨-, k, -, h⟩ := poll_cases s x
  · rw [ho] at hc; cases hc
  · rw [h]; exact ⟨rfl, rfl⟩
  · rw [h]; exact ⟨rfl, rfl⟩

/-- At most one instruction lies at `pc`. -/
theorem fetchesInstr_unique {s : State} {a b : Instr} (ha : FetchesInstr s a) (hb : FetchesInstr s b) : a = b := by
  obtain ⟨-, ha⟩ := fetchesInstr_iff.mp ha
  obtain ⟨-, hb⟩ := fetchesInstr_iff.mp hb
  exact Decoded.instr.inj (ha.symm.trans hb)

/-- Everything a step that raised no fault can do: the closed host stopped it, the instruction at `pc` had its effect, or it
was a poll. -/
theorem step_cases_of_no_fault {s t : State} (h : step s = .next t) (hn : t.status ≠ .halted) :
    (s.hostOpenNow = false ∧ t = { s.betweenCycles.takeHostOpen with status := .stopped }) ∨
    (s.status = .running ∧ s.hostOpenNow = true ∧ ∃ ins, FetchesInstr s ins ∧
      t = (s.betweenCycles.cycleStart.effectOf ins).endCycle) ∨
    (∃ x, s.status = .waitKey x ∧ t = s.betweenCycles.poll x) := by
  obtain ⟨-, ho, rfl⟩ | ⟨-, -, f, rfl⟩ | ⟨hr, ho, ins, u, hf, he, rfl⟩ | ⟨x, hx, rfl⟩ := step_cases h
  · exact .inl ⟨ho, rfl⟩
  · exact absurd rfl hn
  · rw [State.endCycle_status] at hn
    exact .inr (.inl ⟨hr, ho, ins, hf, congrArg State.endCycle (eq_effectOf_of_exec he hn)⟩)
  · exact .inr (.inr ⟨x, hx, rfl⟩)

/-! ### Inputs that an instruction does not read -/

/-- The state with the stack, `sp`, the latch and the random draws put through arbitrary maps. -/
def State.mapInputs (a : Vector Word 16 → Vector Word 16) (b : Fin 17 → Fin 17) (c : KeySet → KeySet)
    (d : Draws Byte → Draws Byte) (s : State) : State :=
  { s with stack := a s.stack, sp := b s.sp, keys := c s.keys, randDraws := d s.randDraws }

/-- A map of states applied to the next state of a result. -/
def mapNext (f : State → State) : Result → Result
  | .next s => .next (f s)
  | .fault r => .fault r
  | .refused r => .refused r

/-- No check reads the stack, the latch or the random draws. -/
theorem State.faultOf_mapInputs (a b c d) (s : State) (ins : Instr) :
    (s.mapInputs a b c d).faultOf ins = s.faultOf ins := by
  cases ins <;> rfl

/-- No effect reads the stack; the latch is read by SKP and SKNP alone (R31), the random draws by RND alone (R114). -/
theorem State.effectOf_mapInputs (a b) {c d} {ins : Instr} (hc : c = id ∨ ∀ x, ins ≠ .skp x ∧ ins ≠ .sknp x)
    (hd : d = id ∨ ∀ x nn, ins ≠ .rnd x nn) (s : State) :
    (s.mapInputs a b c d).effectOf ins = (s.effectOf ins).mapInputs a b c d := by
  cases ins with
  | skp x =>
    obtain rfl | hc := hc
    · rfl
    · exact absurd rfl (hc x).1
  | sknp x =>
    obtain rfl | hc := hc
    · rfl
    · exact absurd rfl (hc x).2
  | rnd x nn =>
    obtain rfl | hd := hd
    · rfl
    · exact absurd rfl (hd x nn)
  | _ => rfl

theorem exec_mapInputs (a b) {c d} {ins : Instr} (hc : c = id ∨ ∀ x, ins ≠ .skp x ∧ ins ≠ .sknp x)
    (hd : d = id ∨ ∀ x nn, ins ≠ .rnd x nn) (s : State) :
    exec ins (s.mapInputs a b c d) = mapNext (State.mapInputs a b c d) (exec ins s) := by
  rw [exec_eq, exec_eq, State.faultOf_mapInputs, State.effectOf_mapInputs a b hc hd]
  cases s.faultOf ins <;> rfl

/-! ### The stack through a whole step (R25) -/

/-- The state with another call stack. -/
def State.withStack (k : Vector Word 16) (p : Fin 17) (s : State) : State := { s with stack := k, sp := p }

section Stack

variable (k : Vector Word 16) (p : Fin 17)

theorem exec_withStack (ins : Instr) (s : State) :
    exec ins (s.withStack k p) = mapNext (State.withStack k p) (exec ins s) :=
  exec_mapInputs (fun _ => k) (fun _ => p) (.inl rfl) (.inl rfl) s

theorem State.endCycle_withStack (s : State) : (s.withStack k p).endCycle = s.endCycle.withStack k p :=
  (apply_ite (State.withStack k p) (s.status = .running) s.timerTick s).symm

theorem State.runWord_withStack (s : State) (op : Word) :
    (s.withStack k p).runWord op = mapNext (State.withStack k p) (s.runWord op) := by
  unfold State.runWord
  cases decode op with
  | unsupported op => rfl
  | instr i =>
    simp only [exec_withStack]
    cases exec i s with
    | next t => exact congrArg _ (t.endCycle_withStack k p)
    | fault r => rfl
    | refused r => rfl

theorem State.fetchAndRun_withStack (s : State) :
    (s.withStack k p).fetchAndRun = mapNext (State.withStack k p) s.fetchAndRun := by
  unfold State.fetchAndRun
  rw [show (s.withStack k p).fetch = s.fetch from State.fetch_congr rfl rfl]
  cases s.fetch with
  | error f => rfl
  | ok op => exact s.runWord_withStack k p op

theorem State.cycle_withStack (s : State) :
    (s.withStack k p).cycle = mapNext (State.withStack k p) s.cycle := by
  unfold State.cycle
  rw [apply_ite (mapNext _), ← State.fetchAndRun_withStack]
  rfl

theorem State.poll_withStack (s : State) (x : RegIdx) : (s.withStack k p).poll x = (s.poll x).withStack k p := by
  cases ho : s.hostOpenNow with
  | false => rw [State.poll_closed ho, State.poll_closed (s := s.withStack k p) ho]; rfl
  | true =>
    cases hk : leastKey (newKeys keywaitTrigger s.keys s.keySampleNow) with
    | none => rw [State.poll_waits ho hk, State.poll_waits (s := s.withStack k p) ho hk]; rfl
    | some j => rw [State.poll_completes ho hk, State.poll_completes (s := s.withStack k p) ho hk]; rfl

theorem step_withStack (s : State) : step (s.withStack k p) = mapNext (State.withStack k p) (step s) := by
  unfold step
  rw [show (s.withStack k p).status = s.status from rfl]
  cases s.status with
  | running => exact s.betweenCycles.cycle_withStack k p
  | waitKey x => exact congrArg _ (s.betweenCycles.poll_withStack k p x)
  | halted => rfl
  | stopped => rfl

end Stack

/-! ### The invariant (R41) -/

/-- The invariant but for the bound on `ST`: what a cycle or a poll must reach before its tick, which brings `ST` to at most 254
from any value. -/
def State.InvBeforeTick (s : State) : Prop := (s.setSt 0).Inv

theorem State.InvBeforeTick.timerTick {s : State} (h : s.InvBeforeTick) : s.timerTick.Inv where
  memCanonical := h.memCanonical
  indexInMemory := h.indexInMemory
  pcRunning := h.pcRunning
  pcWaiting := h.pcWaiting
  delayZero hl := by
    have hz : s.dt = 0 := h.delayZero hl
    rw [State.timerTick_dt, hz]
    rfl
  soundBelow255 _ := by
    have := s.st.isLt
    rw [State.timerTick_st, countdown_toNat]
    omega
  stackInert := h.stackInert
  noFault := h.noFault
  faultRecorded := h.faultRecorded

/-- Of a machine that is over the invariant asks canonical memory, and a recorded fault exactly when it halted. -/
theorem State.inv_of_not_live {s : State} (hl : ¬ s.Live) (hm : s.mem.wf = true)
    (hs : s.status = .stopped → s.fault = none) (hh : s.status = .halted → s.fault.isSome = true) : s.Inv where
  memCanonical := hm
  indexInMemory h := absurd h hl
  pcRunning h := absurd (.inl h) hl
  pcWaiting x h := absurd (.inr ⟨x, h⟩) hl
  delayZero h := absurd h hl
  soundBelow255 h := absurd h hl
  stackInert h := absurd h hl
  noFault h := h.elim (absurd · hl) hs
  faultRecorded := hh

theorem State.Inv.raise {s : State} (h : s.Inv) (f : FaultRecord) : (s.raise f).Inv :=
  State.inv_of_not_live (by simp [State.Live]) h.memCanonical nofun fun _ => rfl

theorem State.Inv.stop {s : State} (h : s.Inv) (hl : s.Live) : State.Inv { s with status := .stopped } :=
  State.inv_of_not_live (by simp [State.Live]) h.memCanonical (fun _ => h.noFault (.inl hl)) nofun

/-- A running machine at a fetchable address may suspend. -/
theorem State.Inv.wait {s : State} (h : s.Inv) (hr : s.status = .running) (hp : s.pc.toNat ≤ 4094) (x : RegIdx) :
    State.Inv { s with status := .waitKey x } where
  memCanonical := h.memCanonical
  indexInMemory _ := h.indexInMemory (.inl hr)
  pcRunning hr := by simp at hr
  pcWaiting _ _ := hp
  delayZero _ := h.delayZero (.inl hr)
  soundBelow255 _ := h.soundBelow255 (.inl hr)
  stackInert _ := h.stackInert (.inl hr)
  noFault _ := h.noFault (.inl (.inl hr))
  faultRecorded hh := by simp at hh

/-- What the boundary of a step changes is not in the invariant. -/
theorem State.Inv.boundary {s : State} (h : s.Inv) : s.betweenCycles.takeHostOpen.Inv :=
  ⟨h.memCanonical, h.indexInMemory, h.pcRunning, h.pcWaiting, h.delayZero, h.soundBelow255, h.stackInert, h.noFault,
    h.faultRecorded⟩

theorem State.Inv.latchKeys {s : State} (h : s.Inv) : s.latchKeys.Inv :=
  ⟨h.memCanonical, h.indexInMemory, h.pcRunning, h.pcWaiting, h.delayZero, h.soundBelow255, h.stackInert, h.noFault,
    h.faultRecorded⟩

/-- An instruction keeps the canonical form of memory: `BCD`, the one store, stores inside memory (R122). -/
theorem exec_mem_wf {ins : Instr} {s t : State} (h : exec ins s = .next t) (hw : s.mem.wf = true) : t.mem.wf = true := by
  obtain hm | ⟨x, -, hi, hm⟩ := exec_mem h
  · rw [hm]; exact hw
  · rw [hm]
    have hlen : (decimalDigits (s.reg x)).length = 3 := rfl
    exact Memory.wf_store hw (by omega)

/-- An instruction that completed leaves the invariant but for the tick. -/
theorem State.Inv.exec_completed {ins : Instr} {s t : State} (h : s.Inv) (hr : s.status = .running)
    (hp : s.pc.toNat ≤ 4094) (he : exec ins s = .next t) (ht : t.status = .running) : t.InvBeforeTick := by
  have heff : t = s.effectOf ins := eq_effectOf_of_exec he (by simp [ht])
  have hl : s.Live := .inl hr
  obtain ⟨hstack, hsp, hdt, -⟩ := exec_kept he
  obtain ⟨hst, hsp0⟩ := h.stackInert hl
  have hmem : t.mem.wf = true := exec_mem_wf he h.memCanonical
  have hfault : t.fault = none := by
    obtain ⟨f, rfl⟩ | ⟨x, -, rfl⟩ | ⟨-, -, hf⟩ := exec_status he
    · simp at ht
    · simp at ht
    · rw [hf]; exact h.noFault (.inl hl)
  exact {
    memCanonical := hmem
    indexInMemory := fun _ => by rw [heff]; exact State.effectOf_i_le ins (h.indexInMemory hl)
    pcRunning := fun _ => by rw [heff]; exact State.effectOf_pc_le ins hp
    pcWaiting := fun x hx => by simp [ht] at hx
    delayZero := fun _ => hdt.trans (h.delayZero hl)
    soundBelow255 := fun _ => by simp
    stackInert := fun _ => ⟨hstack.trans hst, hsp.trans hsp0⟩
    noFault := fun _ => hfault
    faultRecorded := fun hh => by simp [ht] at hh }

/-- A whole instruction with the end of its cycle keeps the invariant: it raised, it suspended, or it completed and ticks. -/
theorem State.Inv.exec_endCycle {ins : Instr} {s t : State} (h : s.Inv) (hr : s.status = .running)
    (hp : s.pc.toNat ≤ 4094) (he : exec ins s = .next t) : t.endCycle.Inv := by
  obtain ⟨f, rfl⟩ | ⟨x, -, rfl⟩ | ⟨-, hs, -⟩ := exec_status he
  · exact h.raise f
  · exact h.wait hr hp x
  · have ht : t.status = .running := hs.trans hr
    rw [State.endCycle, if_pos ht]
    exact (h.exec_completed hr hp he ht).timerTick

/-- The poll that completes a wait keeps the invariant: the deferred advance starts from a fetchable address. -/
theorem State.Inv.completeWait {s : State} {x : RegIdx} (h : s.Inv) (hw : s.status = .waitKey x) (k : Nat) :
    (s.completeWait x k).Inv := by
  have hl : s.Live := .inr ⟨x, hw⟩
  have hp : s.advance.pc.toNat ≤ 4098 := by
    have := h.pcWaiting x hw
    rw [State.advance_pc_toNat this]
    omega
  have hb : State.InvBeforeTick { (s.setReg x (BitVec.ofNat 8 k)).advance with status := .running } := {
    memCanonical := h.memCanonical
    indexInMemory := fun _ => h.indexInMemory hl
    pcRunning := fun _ => hp
    pcWaiting := fun _ hx => by cases hx
    delayZero := fun _ => h.delayZero hl
    soundBelow255 := fun _ => by simp
    stackInert := fun _ => h.stackInert hl
    noFault := fun _ => h.noFault (.inl hl)
    faultRecorded := fun hh => by cases hh }
  exact hb.timerTick

theorem State.Inv.poll {s : State} {x : RegIdx} (h : s.Inv) (hw : s.status = .waitKey x) :
    (s.betweenCycles.poll x).Inv := by
  obtain ⟨-, hp⟩ | ⟨-, -, hp⟩ | ⟨-, k, -, hp⟩ := poll_cases s.betweenCycles x <;> rw [hp]
  · exact h.boundary.stop (.inr ⟨x, hw⟩)
  · exact h.boundary.latchKeys
  · exact h.boundary.latchKeys.completeWait hw k

/-! ### The statements -/

/-- Settles O55: every case of a step keeps the invariant. -/
theorem stepKeepsInvariant : Obligations.StepKeepsInvariant := by
  intro s t h hs
  obtain ⟨hr, -, rfl⟩ | ⟨-, -, f, rfl⟩ | ⟨hr, -, ins, u, hf, he, rfl⟩ | ⟨x, hw, rfl⟩ := step_cases hs
  · exact h.boundary.stop (.inl hr)
  · exact h.boundary.latchKeys.raise f
  · exact h.boundary.latchKeys.exec_endCycle hr (fetchesInstr_iff.mp hf).1 he
  · exact h.poll hw

/-- Settles O40: a cycle latches the sample before the fetch and no instruction writes the latch; a poll latches it itself. -/
theorem latchReplacedAtEverySample : Obligations.LatchReplacedAtEverySample := by
  intro s t ho hs hn
  obtain ⟨-, hc, -⟩ | ⟨-, -, f, rfl⟩ | ⟨-, -, ins, u, -, he, rfl⟩ | ⟨x, -, rfl⟩ := step_cases hs
  · rw [ho] at hc; cases hc
  · exact absurd rfl hn
  · obtain ⟨-, -, -, hk, -, -, -, hd⟩ := exec_kept he
    rw [State.endCycle_keys, State.endCycle_keyDraws, hk, hd]
    exact ⟨rfl, rfl⟩
  · exact s.betweenCycles.poll_keys ho x

/-- Settles O46: outside `DRW` the effect of an instruction leaves the framebuffer alone, and so do a poll and a stop. -/
theorem onlyDrwChangesFramebuffer : Obligations.OnlyDrwChangesFramebuffer := by
  intro s t hs hn hfb
  obtain ⟨-, rfl⟩ | ⟨hr, -, ins, hf, rfl⟩ | ⟨x, -, rfl⟩ := step_cases_of_no_fault hs hn
  · exact absurd rfl hfb
  · refine ⟨hr, ?_⟩
    by_contra hdrw
    have hins : ∀ x y n, ins ≠ .drw x y n := fun x y n e => hdrw ⟨x, y, n, e ▸ hf⟩
    rw [State.endCycle_fb, (State.effectOf_fb_fbDirty hins _).1] at hfb
    exact hfb rfl
  · exact absurd (s.betweenCycles.poll_fb_fbDirty x).1 hfb

/-- Settles O48, by the register each effect writes. -/
theorem flagWrittenOnlyByAddAndDrw : Obligations.FlagWrittenOnlyByAddAndDrw := by
  intro ins s t he hn hne
  rw [eq_effectOf_of_exec he hn] at hne
  cases ins with
  | add | drw => trivial
  | ld | addi | and => exact State.eq_of_setReg_reg_ne hne
  | rnd => exact State.eq_of_setReg_reg_ne (s := s.takeRandom) hne
  | ldm x =>
    by_contra hx
    have hlt : x < flagReg := lt_of_le_of_ne (Fin.le_last x) hx
    exact hne (State.effectOf_ldm_reg hlt)
  | _ => exact hne rfl

/-- Settles O49, by the special registers each effect writes. -/
theorem specialRegistersHaveOnlyTheirWriters : Obligations.SpecialRegistersHaveOnlyTheirWriters := by
  intro ins s t he hn
  obtain ⟨-, -, hdt, -⟩ := exec_kept he
  obtain rfl := eq_effectOf_of_exec he hn
  exact ⟨State.effectOf_i_ne, State.effectOf_st_ne, hdt⟩

/-- Settles O51: a completed draw sets the flag, and everything else in a step keeps what the boundary left of it. -/
theorem dirtySetByDrawClearedByHost : Obligations.DirtySetByDrawClearedByHost := by
  intro s t hs hn
  obtain ⟨hc, rfl⟩ | ⟨hr, ho, ins, hf, rfl⟩ | ⟨x, hw, rfl⟩ := step_cases_of_no_fault hs hn
  · refine ⟨fun _ ho => ?_, fun _ => rfl⟩
    rw [ho] at hc; cases hc
  · rw [State.endCycle_fbDirty]
    constructor
    · rintro - - ⟨x, y, n, hd⟩
      obtain rfl := fetchesInstr_unique hf hd
      rfl
    · intro hno
      exact (State.effectOf_fb_fbDirty (fun x y n e => hno ⟨hr, ho, x, y, n, e ▸ hf⟩) _).2
  · refine ⟨fun hr => ?_, fun _ => (s.betweenCycles.poll_fb_fbDirty x).2⟩
    rw [hw] at hr; cases hr

/-- Settles O52: replacing the stack commutes with the whole step. -/
theorem stackIsUnobservable : Obligations.StackIsUnobservable := by
  intro s t k p hs _
  have h := step_withStack k p s
  rw [hs] at h
  exact h

/-- Settles O53: replacing an input commutes with every instruction but its readers. -/
theorem inputsReachOnlyTheirReaders : Obligations.InputsReachOnlyTheirReaders := by
  intro ins s t he _
  refine ⟨fun hk ks => ?_, fun hr d => ?_⟩
  · have h := exec_mapInputs id id (c := fun _ => ks) (.inr hk) (.inl rfl) s
    rw [he] at h
    exact h
  · have h := exec_mapInputs id id (d := fun _ => d) (.inl rfl) (.inr hr) s
    rw [he] at h
    exact h

/-- Settles O5, by evaluation of the reset state. -/
theorem resetEntersAtProgramStart : Obligations.ResetEntersAtProgramStart := by
  unfold Obligations.ResetEntersAtProgramStart
  decide

/-- Settles O56: the reset state is running, and each bound is evaluated. -/
theorem resetMeetsInvariant : Obligations.ResetMeetsInvariant where
  memCanonical := rfl
  indexInMemory _ := by decide
  pcRunning _ := by decide
  pcWaiting _ h := by cases h
  delayZero _ := rfl
  soundBelow255 _ := by decide
  stackInert _ := ⟨rfl, rfl⟩
  noFault _ := rfl
  faultRecorded h := by cases h

end Sys2Proof.Machine

/-! PROOFS. The statements of 20_memory.md: what the Loader and `BCD` write, what a fetch reads, and the canonical form. -/

namespace Sys2Proof.Machine

/-! ### A stored block read back (R56, R58) -/

theorem Memory.read_store_add (m : Memory) (a : Nat) {bs : List Byte} {k : Nat} (h : k < bs.length) :
    (m.store a bs).read (a + k) = bs[k] := by
  rw [Memory.read_store, dif_pos ⟨by omega, by omega⟩]
  simp

/-- A byte that a store changed lies in the stored block. -/
theorem Memory.mem_block_of_read_store_ne {m : Memory} {a c : Nat} {bs : List Byte}
    (h : (m.store a bs).read c ≠ m.read c) : a ≤ c ∧ c - a < bs.length := by
  rw [Memory.read_store] at h
  by_contra hc
  exact h (dif_neg hc)

/-- The frame of a store: the bytes of its block alone. -/
theorem State.storeBytes_changesOnly (s : State) (a : Nat) (bs : List Byte) :
    ChangesOnly (fun e => ∃ k, k < bs.length ∧ e = .mem (a + k)) s (s.storeBytes a bs) := by
  intro e he
  cases e with
  | mem c =>
    by_contra hne
    obtain ⟨hac, hlt⟩ := Memory.mem_block_of_read_store_ne hne
    exact he ⟨c - a, hlt, congrArg Elem.mem (by omega)⟩
  | _ => rfl

/-- The Loader on an image that fits is a store at `PROG_BASE` (R64). -/
theorem State.load_of_fits (s : State) {image : List Byte} (h : image.length ≤ 3584) :
    s.load image = s.storeBytes 0x200 image :=
  if_pos (decide_eq_true h)

/-! ### Canonical memories -/

/-- Below its lowest listed address a canonical memory reads as its reset contents. -/
theorem Memory.read_of_wfFrom {lo a : Nat} {m : Memory} (h : Memory.wfFrom lo m = true) (ha : a < lo) :
    m.read a = resetByte a := by
  induction m generalizing lo with
  | nil => rfl
  | cons cell m ih =>
    obtain ⟨k, b⟩ := cell
    obtain ⟨hk, -, -, hm⟩ := (Memory.wfFrom_cons lo k b m).mp h
    rw [Memory.read_cons, if_neg (by omega)]
    exact ih hm (by omega)

/-- A listed byte differs from its reset contents, so a memory that lists nothing up to there reads otherwise. -/
theorem Memory.read_head_ne {lo k : Nat} {b : Byte} {m m' : Memory} (h : Memory.wfFrom lo ((k, b) :: m) = true)
    (h' : Memory.wfFrom (k + 1) m' = true) : Memory.read ((k, b) :: m) k ≠ m'.read k := by
  obtain ⟨-, -, hb, -⟩ := (Memory.wfFrom_cons lo k b m).mp h
  rwa [Memory.read_cons, if_pos rfl, Memory.read_of_wfFrom h' (Nat.lt_succ_self k)]

/-- Two canonical memories that read alike list the same cells: the first cells agree, and then the rests read alike. -/
theorem Memory.ext_of_wfFrom {lo lo' : Nat} {m m' : Memory} (h : Memory.wfFrom lo m = true)
    (h' : Memory.wfFrom lo' m' = true) (hr : ∀ a, Memory.read m a = Memory.read m' a) : m = m' := by
  induction m generalizing lo lo' m' with
  | nil =>
    cases m' with
    | nil => rfl
    | cons cell' m' => exact absurd (hr cell'.1).symm (Memory.read_head_ne h' rfl)
  | cons cell m ih =>
    obtain ⟨k, b⟩ := cell
    cases m' with
    | nil => exact absurd (hr k) (Memory.read_head_ne h rfl)
    | cons cell' m' =>
      obtain ⟨k', b'⟩ := cell'
      obtain ⟨-, hk, hb, hm⟩ := (Memory.wfFrom_cons lo k b m).mp h
      obtain ⟨-, hk', hb', hm'⟩ := (Memory.wfFrom_cons lo' k' b' m').mp h'
      obtain hlt | rfl | hgt := Nat.lt_trichotomy k k'
      · exact absurd (hr k) (Memory.read_head_ne h ((Memory.wfFrom_cons _ _ _ _).mpr ⟨hlt, hk', hb', hm'⟩))
      · have hbb : b = b' := by simpa [Memory.read_cons] using hr k
        have hrest : ∀ a, Memory.read m a = Memory.read m' a := by
          intro a
          by_cases ha : a < k + 1
          · rw [Memory.read_of_wfFrom hm ha, Memory.read_of_wfFrom hm' ha]
          · have hka : k ≠ a := by omega
            simpa [Memory.read_cons, hka] using hr a
        rw [hbb, ih hm hm' hrest]
      · exact absurd (hr k').symm (Memory.read_head_ne h' ((Memory.wfFrom_cons _ _ _ _).mpr ⟨hgt, hk, hb, hm⟩))

/-! ### The fetched word and the digits -/

/-- The byte at the lower address is the high byte (R55). -/
theorem wordOfBytes_eq_or (hi lo : Byte) : wordOfBytes hi lo = (hi.setWidth 16 <<< 8) ||| lo.setWidth 16 := by
  rw [wordOfBytes, BitVec.append_def, BitVec.shiftLeftZeroExtend_eq, BitVec.setWidth'_eq]

theorem wordOfBytes_toNat (hi lo : Byte) : (wordOfBytes hi lo).toNat = 256 * hi.toNat + lo.toNat := by
  rw [wordOfBytes, BitVec.toNat_append, ← Nat.shiftLeft_add_eq_or_of_lt lo.isLt, Nat.shiftLeft_eq, Nat.mul_comm]

theorem hundreds_toNat (v : Byte) : (v / 100).toNat = v.toNat / 100 := BitVec.toNat_udiv

theorem tens_toNat (v : Byte) : (v / 10 % 10).toNat = v.toNat / 10 % 10 := by
  rw [BitVec.toNat_umod, BitVec.toNat_udiv]
  rfl

/-- The three digits of a byte, read back from where they were stored (R122). -/
theorem Memory.read_store_digits (m : Memory) (a : Nat) (v : Byte) :
    (m.store a (decimalDigits v)).read a = v / 100 ∧ (m.store a (decimalDigits v)).read (a + 1) = v / 10 % 10 ∧
      (m.store a (decimalDigits v)).read (a + 2) = v % 10 :=
  have hlen : (decimalDigits v).length = 3 := rfl
  ⟨m.read_store_add a (k := 0) (by omega), m.read_store_add a (k := 1) (by omega),
    m.read_store_add a (k := 2) (by omega)⟩

/-- A `BCD` whose block lies in memory stores its digits at `I` (R122). -/
theorem mem_of_exec_bcd {x : RegIdx} {s t : State} (hi : s.i.toNat ≤ 4093) (h : exec (.bcd x) s = .next t) :
    t.mem = s.mem.store s.i.toNat (decimalDigits (s.reg x)) := by
  have hb : ¬ s.blockOutOfRange 3 = true := by
    rw [State.blockOutOfRange_iff]
    omega
  rw [exec_eq, State.faultOf, if_neg hb] at h
  cases h
  rfl

/-! ### Memory across a step -/

@[simp] theorem State.endCycle_mem (s : State) : s.endCycle.mem = s.mem := State.endCycle_keeps _ (fun _ => rfl) s

/-- A poll leaves memory alone, whatever it answers. -/
theorem State.poll_mem (s : State) (x : RegIdx) : (s.poll x).mem = s.mem := by
  obtain ⟨-, h⟩ | ⟨-, -, h⟩ | ⟨-, k, -, h⟩ := poll_cases s x <;> (rw [h]; rfl)

/-! ### The statements -/

/-- Settles O7: the Loader is one store, read back byte by byte, with the frame of a store. -/
theorem loaderCopiesImage : Obligations.LoaderCopiesImage := by
  intro s image hlen
  rw [s.load_of_fits hlen]
  exact ⟨fun k hk => s.mem.read_store_add 0x200 hk, s.storeBytes_changesOnly 0x200 image⟩

/-- Settles O9, by induction on the two lists of cells. -/
theorem canonicalMemoriesEqual : Obligations.CanonicalMemoriesEqual :=
  fun _ _ => Memory.ext_of_wfFrom

/-- Settles O11: the first two stored digits are the bytes at `I` and `I + 1`. -/
theorem storedDigitsAreFetched : Obligations.StoredDigitsAreFetched := by
  intro x s t u hi he hm hp
  obtain ⟨hhi, hlo, -⟩ := s.mem.read_store_digits s.i.toNat (s.reg x)
  refine ⟨_, State.fetch_ok (by rw [hp]; omega), ?_⟩
  rw [hp, hm, mem_of_exec_bcd hi he, hhi, hlo, wordOfBytes_toNat, hundreds_toNat, tens_toNat]

/-- Settles O47: outside the block that a `BCD` stores at `I`, every case of a step keeps memory. -/
theorem onlyBcdChangesMemory : Obligations.OnlyBcdChangesMemory := by
  intro s t a hs hn hne
  obtain ⟨-, -, rfl⟩ | ⟨-, -, f, rfl⟩ | ⟨hr, -, ins, u, hf, he, rfl⟩ | ⟨x, -, rfl⟩ := step_cases hs
  · exact absurd rfl hne
  · exact absurd rfl hn
  · rw [State.endCycle_mem] at hne
    obtain hm | ⟨x, rfl, -, hm⟩ := exec_mem he
    · exact absurd (congrArg (Memory.read · a) hm) hne
    · rw [hm] at hne
      obtain ⟨hle, hlt⟩ : s.i.toNat ≤ a ∧ a - s.i.toNat < 3 := Memory.mem_block_of_read_store_ne hne
      exact ⟨hr, ⟨x, hf⟩, hle, by omega⟩
  · rw [State.poll_mem] at hne
    exact absurd rfl hne

/-- Settles O10: up to 4094 the fetch is the word of the two bytes. -/
theorem fetchIsBigEndian : Obligations.FetchIsBigEndian :=
  fun _ hp => ⟨_, State.fetch_ok hp, wordOfBytes_eq_or _ _⟩

end Sys2Proof.Machine

/-! PROOFS. The statements of 30_encoding.md: the encoder and the decoder are inverse to each other, the decoder follows the
opcode map, and a word outside the map halts the machine. -/

namespace Sys2Proof

/-! ### The encoder read back by the decoder -/

/-- The decoder finds every literal and every operand where the format of the instruction puts it (R72, R80). -/
theorem decode_encode (ins : Instr) : decode (encode ins) = .instr ins := by
  cases ins with
  | jp | ldi => simp only [encode, decode, BitVec.ofNat_eq_ofNat, fam_NNN, nnn_NNN]
  | se | sne | ld | addi | rnd => simp only [encode, decode, BitVec.ofNat_eq_ofNat, fam_XNN, x_XNN, nn_XNN]
  | and | add => simp only [encode, decode, decode8, BitVec.ofNat_eq_ofNat, fam_XYN, x_XYN, y_XYN, n_XYN]
  | drw => simp only [encode, decode, BitVec.ofNat_eq_ofNat, fam_XYN, x_XYN, y_XYN, n_XYN]
  | skp | sknp => simp only [encode, decode, decodeE, BitVec.ofNat_eq_ofNat, fam_XNN, x_XNN, nn_XNN]
  | wkey | ldst | ldf | bcd | ldm => simp only [encode, decode, decodeF, BitVec.ofNat_eq_ofNat, fam_XNN, x_XNN, nn_XNN]

/-! ### A word put together again from its own fields (R71, R72) -/

theorem encodeNNN_fields {op : Word} {f : BitVec 4} (hf : famField op = f) : encodeNNN f (nnnField op) = op :=
  hf ▸ (BitVec.extractLsb'_append_extractLsb'_eq_extractLsb' rfl).trans BitVec.extractLsb'_eq_self

theorem encodeXNN_fields {op : Word} {f : BitVec 4} {nn : Byte} (hf : famField op = f) (hn : nnField op = nn) :
    encodeXNN f (xField op) nn = op :=
  word_ext ((fam_XNN ..).trans hf.symm) (x_XNN ..) ((nn_XNN ..).trans hn.symm)

theorem encodeXYN_fields {op : Word} {f n : BitVec 4} (hf : famField op = f) (hn : nField op = n) :
    encodeXYN f (xField op) (yField op) n = op :=
  word_ext ((fam_XYN ..).trans hf.symm) (x_XYN ..) (nn_ext (y_XYN ..) ((n_XYN ..).trans hn.symm))

/-! ### The word behind a decoded value -/

/-- The word that a decoded value stands for: its encoding, or the unsupported word it names. -/
def Decoded.word : Decoded → Word
  | .instr ins => encode ins
  | .unsupported op => op

theorem word_decode8 {op : Word} (hf : famField op = 0x8) : (decode8 op).word = op := by
  unfold decode8
  split
  case h_3 => rfl
  all_goals exact encodeXYN_fields hf ‹_›

theorem word_decodeE {op : Word} (hf : famField op = 0xE) : (decodeE op).word = op := by
  unfold decodeE
  split
  case h_3 => rfl
  all_goals exact encodeXNN_fields hf ‹_›

theorem word_decodeF {op : Word} (hf : famField op = 0xF) : (decodeF op).word = op := by
  unfold decodeF
  split
  case h_6 => rfl
  all_goals exact encodeXNN_fields hf ‹_›

/-- Decoding loses nothing: what it answers stands for the word it read (R77, R79). -/
theorem word_decode (op : Word) : (decode op).word = op := by
  unfold decode
  split
  case h_1 hf | h_7 hf => exact encodeNNN_fields hf
  case h_6 hf => exact word_decode8 hf
  case h_9 hf => exact encodeXYN_fields hf rfl
  case h_10 hf => exact word_decodeE hf
  case h_11 hf => exact word_decodeF hf
  case h_12 => rfl
  all_goals exact encodeXNN_fields ‹_› rfl

theorem encode_of_decode {op : Word} {ins : Instr} (h : decode op = .instr ins) : encode ins = op := by
  have hw := word_decode op
  rwa [h] at hw

theorem eq_of_decode_unsupported {op w : Word} (h : decode op = .unsupported w) : w = op := by
  have hw := word_decode op
  rwa [h] at hw

/-! ### The opcode map (R75) -/

/-- A mask that covers a field of the word fixes it: the field is the pattern's. -/
theorem extractLsb'_of_mask {k len : Nat} {op m p : Word} (hm : m.extractLsb' k len = BitVec.allOnes len) (h : op &&& m = p) :
    op.extractLsb' k len = p.extractLsb' k len := by
  rw [← h, BitVec.extractLsb'_and, hm, BitVec.and_allOnes]

theorem famField_of_mask {op m p : Word} (hm : famField m = 0xF) (h : op &&& m = p) : famField op = famField p :=
  extractLsb'_of_mask hm h

theorem nField_of_mask {op m p : Word} (hm : nField m = 0xF) (h : op &&& m = p) : nField op = nField p :=
  extractLsb'_of_mask hm h

theorem nnField_of_mask {op m p : Word} (hm : nnField m = 0xFF) (h : op &&& m = p) : nnField op = nnField p :=
  extractLsb'_of_mask hm h

theorem famField_mask : ∀ r ∈ opcodeTable, famField r.mask = 0xF := by decide

theorem eq_of_mnemonic_eq : ∀ r ∈ opcodeTable, ∀ r' ∈ opcodeTable, r.mnemonic = r'.mnemonic → r = r' := by decide

/-- A word that selects a row decodes to an instruction of that row: every mask covers the family, and the mask of a row whose
family has a sub-opcode covers that too (R74). -/
theorem decode_of_selects {op : Word} {r : OpcodeRow} (hr : r ∈ opcodeTable) (h : op &&& r.mask = r.pattern) :
    ∃ ins, decode op = .instr ins ∧ ins.mnemonic = r.mnemonic := by
  have hf : famField op = famField r.pattern := famField_of_mask (famField_mask r hr) h
  rw [decode, hf]
  simp only [opcodeTable, List.cons_append, List.nil_append, List.mem_cons, List.not_mem_nil, or_false] at hr
  obtain rfl | rfl | rfl | rfl | rfl | rfl | rfl | rfl | rfl | rfl | rfl | rfl | rfl | rfl | rfl | rfl | rfl := hr
  -- JP, SE, SNE, LD, ADDI
  iterate 5 exact ⟨_, rfl, rfl⟩
  -- AND, ADD
  iterate 2
    rw [decode8, nField_of_mask rfl h]
    exact ⟨_, rfl, rfl⟩
  -- LDI, RND, DRW
  iterate 3 exact ⟨_, rfl, rfl⟩
  -- families E and F
  all_goals
    rw [decodeE, decodeF, nnField_of_mask rfl h]
    exact ⟨_, rfl, rfl⟩

/-- The word of every instruction selects the row of its mnemonic. -/
theorem Laws.EncodingRow.statement (ins : Instr) : Laws.EncodingRow.Statement ins := by
  cases ins
  exacts [jp _, se _ _, sne _ _, ld _ _, addi _ _, and _ _, add _ _, ldi _, rnd _ _, drw _ _ _, skp _, sknp _, wkey _, ldst _,
    ldf _, bcd _, ldm _]

theorem selects_of_decode {op : Word} {ins : Instr} (h : decode op = .instr ins) :
    ∃ r ∈ opcodeTable, r.mnemonic = ins.mnemonic ∧ op &&& r.mask = r.pattern :=
  encode_of_decode h ▸ Laws.EncodingRow.statement ins

theorem decode_eq_unsupported_iff (op : Word) :
    (∀ r ∈ opcodeTable, op &&& r.mask ≠ r.pattern) ↔ decode op = .unsupported op := by
  constructor
  · intro hno
    cases hd : decode op with
    | instr ins =>
      obtain ⟨r, hr, -, hs⟩ := selects_of_decode hd
      exact absurd hs (hno r hr)
    | unsupported w => rw [eq_of_decode_unsupported hd]
  · intro hu r hr hs
    obtain ⟨ins, hd, -⟩ := decode_of_selects hr hs
    rw [hu] at hd
    cases hd

end Sys2Proof

namespace Sys2Proof.Machine

/-! ### The step on a fetched word -/

/-- A running machine with the host open runs the word of the two bytes at `pc`, after the boundary (R90). -/
theorem step_eq_runWord {s : State} (hr : s.status = .running) (ho : s.hostOpenNow = true) (hp : s.pc.toNat ≤ 4094) :
    step s = s.betweenCycles.cycleStart.runWord
      (wordOfBytes (s.mem.read s.pc.toNat) (s.mem.read (s.pc.toNat + 1))) := by
  have hf : s.betweenCycles.cycleStart.fetch = _ := State.fetch_ok hp
  simp only [step, hr, State.cycle, State.betweenCycles_hostOpenNow, ho, State.fetchAndRun, hf]
  rfl

/-! ### The statements -/

/-- Settles O1, format by format. -/
theorem decodeInvertsEncode : Obligations.DecodeInvertsEncode := decode_encode

/-- Settles O2: the answer of the decoder stands for its word. -/
theorem encodeInvertsDecode : Obligations.EncodeInvertsDecode := fun _ _ => encode_of_decode

/-- Settles O3: a row that is selected fixes what the decoder tests, and the row of a decoded instruction is selected by its word;
no two rows share a mnemonic. -/
theorem decodeFollowsOpcodeMap : Obligations.DecodeFollowsOpcodeMap := by
  intro op
  refine ⟨fun r hr => ⟨decode_of_selects hr, ?_⟩, decode_eq_unsupported_iff op⟩
  rintro ⟨ins, hd, hm⟩
  obtain ⟨r', hr', hm', hs⟩ := selects_of_decode hd
  obtain rfl : r' = r := eq_of_mnemonic_eq r' hr' r hr (hm'.trans hm)
  exact hs

/-- Settles O58: in both readings the word is the encoding, and each format puts its operands in their fields. -/
theorem operandsStandInTheirFields : Obligations.OperandsStandInTheirFields := by
  intro op ins h
  obtain rfl : op = encode ins := h.elim (fun hd => (encode_of_decode hd).symm) id
  cases ins with
  | jp | ldi => simp only [encode, ← nnnField_toNat, nnn_NNN]
  | se | sne | ld | addi | rnd => simp only [encode, ← xField_val, ← nnField_toNat, x_XNN, nn_XNN, and_self]
  | and | add => simp only [encode, ← xField_val, ← yField_val, x_XYN, y_XYN, and_self]
  | drw => simp only [encode, ← xField_val, ← yField_val, ← nField_toNat, x_XYN, y_XYN, n_XYN, and_self]
  | skp | sknp | wkey | ldst | ldf | bcd | ldm => simp only [encode, ← xField_val, x_XNN]

/-- Settles O4: each listed word is evaluated on its own. -/
theorem workedDecodes : Obligations.WorkedDecodes := by
  unfold Obligations.WorkedDecodes
  split_ands <;> decide

/-- Settles O43: a word that selects no row is run as `Unsupported`, and that raises. -/
theorem unmatchedWordHalts : Obligations.UnmatchedWordHalts := by
  rintro s op hr ho hp rfl hno
  refine ⟨s.betweenCycles.cycleStart.raise (.unsupportedInstruction _), ?_, rfl, rfl⟩
  rw [step_eq_runWord hr ho hp, State.runWord, (decode_eq_unsupported_iff _).mp hno]

end Sys2Proof.Machine

/-! PROOFS. The statements of 40_cycle.md: when a step exists, what it runs, and when the timers tick. -/

namespace Sys2Proof.Machine

/-! ### A step, by how it starts (R90 to R92, R98) -/

theorem step_waiting {s : State} {x : RegIdx} (hw : s.status = .waitKey x) : step s = .next (s.betweenCycles.poll x) := by
  simp only [step, hw]

/-- A closed host stops a cycle and a poll alike (R91, R142). -/
theorem step_closed {s : State} (hl : s.Live) (ho : s.hostOpenNow = false) :
    step s = .next { s.betweenCycles.takeHostOpen with status := .stopped } := by
  obtain hr | ⟨x, hw⟩ := hl
  · simp [step, hr, State.cycle, ho]
  · rw [step_waiting hw, State.poll_closed (s := s.betweenCycles) ho]

/-- A fetch past the last cell raises at the state after the boundary (R92). -/
theorem step_fetch_fault {s : State} (hr : s.status = .running) (ho : s.hostOpenNow = true) (hp : 4094 < s.pc.toNat) :
    step s = .next (s.betweenCycles.cycleStart.raise
      (.addressOutOfRange .mem (if s.pc.toNat = 4095 then 4096 else s.pc.toNat))) := by
  have hf : s.betweenCycles.cycleStart.fetch = _ := State.fetch_error hp
  simp only [step, hr, State.cycle, State.betweenCycles_hostOpenNow, ho, State.fetchAndRun, hf]
  rfl

theorem step_of_fetchesInstr {s : State} {ins : Instr} (hr : s.status = .running) (ho : s.hostOpenNow = true)
    (hf : FetchesInstr s ins) : step s = endCycleOf (exec ins s.betweenCycles.cycleStart) := by
  obtain ⟨hp, hd⟩ := fetchesInstr_iff.mp hf
  rw [step_eq_runWord hr ho hp, State.runWord, hd]

/-- A fetched word always leaves a next state: it raises, or its instruction does what `exec_eq` says. -/
theorem State.runWord_next (s : State) (op : Word) : ∃ t, s.runWord op = .next t := by
  unfold State.runWord
  cases decode op with
  | unsupported w => exact ⟨_, rfl⟩
  | instr ins =>
    simp only [exec_eq]
    exact ⟨_, rfl⟩

/-- The boundary actions change their own elements alone (R36, R91). -/
theorem State.cycleStart_changesOnly (s : State) : ChangesOnly BoundaryElem s s.betweenCycles.cycleStart := by
  intro e he
  cases e with
  | keys | fbDirty | soundExpire | openDraws | frameDraws | keyDraws => exact absurd (by simp [BoundaryElem]) he
  | _ => rfl

/-! ### A step, by how it ends (R96) -/

theorem State.endCycle_of_running {s : State} (h : s.status = .running) : s.endCycle = s.timerTick := if_pos h

theorem State.endCycle_of_not_running {s : State} (h : s.status ≠ .running) : s.endCycle = s := if_neg h

/-- A step raised, was stopped by the host, ended inside a key-wait with nothing done but the boundary, or completed: then it ran
the effect of the instruction at `pc` and the tick, or it was the poll that ends a wait. -/
theorem step_end_cases {s t : State} (h : step s = .next t) :
    (∃ f, t = s.betweenCycles.cycleStart.raise f) ∨
    t = { s.betweenCycles.takeHostOpen with status := .stopped } ∨
    (∃ x, t = { s.betweenCycles.cycleStart with status := .waitKey x }) ∨
    (s.status = .running ∧ t.status = .running ∧ ∃ ins, FetchesInstr s ins ∧
      t = (s.betweenCycles.cycleStart.effectOf ins).timerTick) ∨
    (∃ x k, s.status = .waitKey x ∧ t = s.betweenCycles.cycleStart.completeWait x k) := by
  obtain ⟨-, -, ht⟩ | ⟨-, -, hf⟩ | ⟨hr, -, ins, u, hf, he, rfl⟩ | ⟨x, hw, rfl⟩ := step_cases h
  · exact .inr (.inl ht)
  · exact .inl hf
  · obtain ⟨f, rfl⟩ | ⟨x, -, rfl⟩ | ⟨-, hs, -⟩ := exec_status he
    · exact .inl ⟨f, State.endCycle_of_not_running nofun⟩
    · exact .inr (.inr (.inl ⟨x, State.endCycle_of_not_running nofun⟩))
    · have hu : u.status = .running := hs.trans hr
      obtain rfl := eq_effectOf_of_exec he (by simp [hu])
      rw [State.endCycle_of_running hu]
      exact .inr (.inr (.inr (.inl ⟨hr, hu, ins, hf, rfl⟩)))
  · obtain ⟨-, hp⟩ | ⟨-, -, hp⟩ | ⟨-, k, -, hp⟩ := poll_cases s.betweenCycles x <;> rw [hp]
    · exact .inr (.inl rfl)
    · refine .inr (.inr (.inl ⟨x, ?_⟩))
      rw [← hw]
      rfl
    · exact .inr (.inr (.inr (.inr ⟨x, k, hw, rfl⟩)))

/-- No instruction writes `DT` (R26). -/
theorem State.effectOf_dt (s : State) (ins : Instr) : (s.effectOf ins).dt = s.dt := by
  cases ins <;> rfl

theorem State.effectOf_st {ins : Instr} (h : ∀ x, ins ≠ .ldst x) (s : State) : (s.effectOf ins).st = s.st := by
  by_contra hne
  obtain ⟨x, hx⟩ := State.effectOf_st_ne hne
  exact h x hx

/-! ### The statements -/

/-- Settles O37: only a completed step ticks, and the tick sees `ST` as the effect of the instruction left it. -/
theorem oneTickPerCompletedCycle : Obligations.OneTickPerCompletedCycle := by
  intro s t hs
  obtain ⟨f, rfl⟩ | rfl | ⟨x, rfl⟩ | ⟨hr, ht, ins, hf, rfl⟩ | ⟨x, k, hw, rfl⟩ := step_end_cases hs
  · exact ⟨nofun, nofun⟩
  · exact ⟨nofun, fun _ => ⟨rfl, rfl⟩⟩
  · exact ⟨nofun, fun _ => ⟨rfl, rfl⟩⟩
  · refine ⟨fun _ => ?_, by rw [ht]; nofun⟩
    rw [State.timerTick_dt, State.timerTick_st, countdown_toNat, countdown_toNat, State.effectOf_dt]
    refine ⟨rfl, fun x _ hx => ?_, fun hno => ?_⟩
    · obtain rfl := fetchesInstr_unique hf hx
      rfl
    · rw [State.effectOf_st fun x e => hno x ⟨hr, e ▸ hf⟩]
      rfl
  · refine ⟨fun _ => ⟨countdown_toNat _, fun y hr => ?_, fun _ => countdown_toNat _⟩, nofun⟩
    rw [hw] at hr
    cases hr

/-- Settles O45: a cycle stops, faults in its fetch or runs its word, a poll is a next state, and nothing else is live. -/
theorem stepEndsOnlyWhenRunIsOver : Obligations.StepEndsOnlyWhenRunIsOver := by
  refine fun s => ⟨fun hl => ?_, fun hh => by simp only [step, hh], fun hh => by simp only [step, hh]⟩
  cases ho : s.hostOpenNow with
  | false => exact ⟨_, step_closed hl ho⟩
  | true =>
    obtain hr | ⟨x, hw⟩ := hl
    · by_cases hp : s.pc.toNat ≤ 4094
      · rw [step_eq_runWord hr ho hp]
        exact State.runWord_next _ _
      · exact ⟨_, step_fetch_fault hr ho (by omega)⟩
    · exact ⟨_, step_waiting hw⟩

/-- Settles O39: the step is `exec` of the fetched instruction with the end of the cycle, which ticks while `Running`. -/
theorem stepRunsDecodedInstruction : Obligations.StepRunsDecodedInstruction := by
  intro s ins hr ho hf
  have hstep := step_of_fetchesInstr hr ho hf
  refine ⟨s.cycleStart_changesOnly, rfl, hstep, fun t he => ?_⟩
  rw [hstep, he]
  rfl

/-- Settles O41: the stopped state is the boundary without the sample. -/
theorem closedHostStopsTheRun : Obligations.ClosedHostStopsTheRun := by
  refine fun s hl ho => ⟨_, step_closed hl ho, rfl, fun e he => ?_⟩
  cases e with
  | status | fbDirty | soundExpire | openDraws | frameDraws => exact absurd (by simp) he
  | _ => rfl

/-- Settles O42, by the error of the fetch. -/
theorem fetchPastMemoryHalts : Obligations.FetchPastMemoryHalts :=
  fun _ hr ho hp => ⟨_, step_fetch_fault hr ho hp, rfl, rfl⟩

end Sys2Proof.Machine

/-! PROOFS. The statements of 41_control.md: the jump, the two register skips, and the values `pc` can take. -/

namespace Sys2Proof.Machine

/-! ### What a jump and a skip change (R100, R101) -/

theorem State.jump_changesOnly (s : State) (w : Word) : ChangesOnly (fun e => e = .pc) s (s.jump w) := by
  intro e he
  cases e with
  | pc => exact absurd rfl he
  | _ => rfl

/-- A skip is a jump past one or two instructions. -/
theorem State.skipIf_changesOnly (s : State) (c : Bool) : ChangesOnly (fun e => e = .pc) s (s.skipIf c) :=
  s.jump_changesOnly _

/-- Skips on opposite conditions part, also where `pc` wraps. -/
theorem State.skipIf_pc_ne_skipIf_not (s : State) (c : Bool) : (s.skipIf c).pc ≠ (s.skipIf !c).pc := by
  have hne : s.pc + 4 ≠ s.pc + 2 := by bv_omega
  cases c with
  | false => exact hne.symm
  | true => exact hne

/-- From a fetchable address a skip does not wrap. -/
theorem State.skipIf_pc_toNat {s : State} (h : s.pc.toNat ≤ 4094) (c : Bool) :
    (s.skipIf c).pc.toNat = s.pc.toNat + 2 ∨ (s.skipIf c).pc.toNat = s.pc.toNat + 4 := by
  cases c with
  | false => exact .inl (State.advance_pc_toNat h)
  | true =>
    rw [State.skipIf_pc, if_pos rfl]
    bv_omega

/-! ### The statements -/

/-- Settles O15: a completed instruction has its effect, which advances, skips, jumps or, for `WKEY`, leaves `pc`. -/
theorem pcTakesOnlyTheseValues : Obligations.PcTakesOnlyTheseValues := by
  intro ins s t _ hp he hn
  obtain rfl := eq_effectOf_of_exec he hn
  cases ins with
  | jp nnn => exact address_toNat nnn
  | se | sne | skp | sknp => exact State.skipIf_pc_toNat hp _
  | wkey => rfl
  | _ => exact State.advance_pc_toNat hp

/-- Settles O12: `JP` is a jump to the zero-extended target. -/
theorem jpSetsPcToTarget : Obligations.JpSetsPcToTarget :=
  fun nnn s => ⟨Laws.mask_fam 1 nnn, _, rfl, address_toNat nnn, s.jump_changesOnly _⟩

/-- Settles O13: `SE` is a skip on equality. -/
theorem seSkipsOnEqual : Obligations.SeSkipsOnEqual :=
  fun x nn s => ⟨Laws.mask_XNN 3 x nn, _, rfl, if_congr beq_iff_eq rfl rfl, s.skipIf_changesOnly _⟩

/-- Settles O14: `SNE` skips on the negation of the condition of `SE`. -/
theorem sneSkipsOnUnequal : Obligations.SneSkipsOnUnequal := by
  refine fun x nn s => ⟨Laws.mask_XNN 4 x nn, _, rfl, if_congr bne_iff_ne rfl rfl, s.skipIf_changesOnly _, ?_⟩
  rintro _ ⟨⟩
  exact s.skipIf_pc_ne_skipIf_not (s.reg x == nn)

end Sys2Proof.Machine

/-! PROOFS. The statements of 42_alu.md: what each register and ALU instruction stores, and that it changes nothing else. -/

namespace Sys2Proof.Machine

/-! ### Frames compose: each instruction of 42_alu.md is a few register writes, then the advance -/

theorem Elem.Same.trans {e : Elem} {s t u : State} (h : e.Same s t) (h' : e.Same t u) : e.Same s u := by
  cases e <;> exact Eq.trans h' h

/-- What two updates in a row change, one of them changes. -/
theorem ChangesOnly.trans {p q : Elem → Prop} {s t u : State} (h : ChangesOnly p s t) (h' : ChangesOnly q t u) :
    ChangesOnly (fun e => p e ∨ q e) s u :=
  fun e he => (h e fun hp => he (.inl hp)).trans (h' e fun hq => he (.inr hq))

theorem State.advance_changesOnly (s : State) : ChangesOnly (fun e => e = .pc) s s.advance := s.jump_changesOnly _

theorem State.setReg_changesOnly (s : State) (x : RegIdx) (b : Byte) : ChangesOnly (fun e => e = .v x) s (s.setReg x b) := by
  intro e he
  cases e with
  | v r => exact (s.reg_setReg x b r).trans (if_neg fun hr => he (congrArg Elem.v hr))
  | _ => rfl

theorem State.takeRandom_changesOnly (s : State) : ChangesOnly (fun e => e = .randDraws) s s.takeRandom := by
  intro e he
  cases e with
  | randDraws => exact absurd rfl he
  | _ => rfl

/-- The frame of an instruction that stores one register and advances. -/
theorem State.setReg_advance_changesOnly (s : State) (x : RegIdx) (b : Byte) :
    ChangesOnly (fun e => e = .v x ∨ e = .pc) s (s.setReg x b).advance :=
  (s.setReg_changesOnly x b).trans (State.advance_changesOnly _)

/-! ### What is stored -/

theorem State.reg_setReg_same (s : State) (x : RegIdx) (b : Byte) : (s.setReg x b).reg x = b :=
  (s.reg_setReg x b x).trans (if_pos rfl)

/-- The flag byte of a carry is 1 exactly when the exact sum is above 255 (R113). -/
theorem flagByte_carryOut (a b : Byte) : flagByte (carryOut a b) = if a.toNat + b.toNat > 255 then 1 else 0 :=
  if_congr decide_eq_true_iff rfl rfl

/-- A masked byte has no bit outside the mask. -/
theorem mask_and_not_mask (nn b : Byte) : nn &&& b &&& ~~~nn = 0 := by
  rw [BitVec.and_comm nn, BitVec.and_assoc, BitVec.and_not_self]
  exact BitVec.and_zero

/-- A byte without bits outside the mask is the mask of itself. -/
theorem mask_and_eq_self {nn v : Byte} (h : v &&& ~~~nn = 0) : nn &&& v = v := by
  apply BitVec.eq_of_getLsbD_eq
  intro k hk
  have hbit : v.getLsbD k = true → nn.getLsbD k = true := by
    simpa [hk] using congrArg (BitVec.getLsbD · k) h
  rw [BitVec.getLsbD_and]
  exact Bool.and_eq_right_iff_imp.mpr hbit

/-! ### The statements -/

/-- Settles O16: `LD` stores one register and advances. -/
theorem ldLoadsImmediate : Obligations.LdLoadsImmediate :=
  fun x nn s => ⟨Laws.mask_XNN 6 x nn, _, rfl, s.reg_setReg_same x nn, rfl, s.setReg_advance_changesOnly x nn⟩

/-- Settles O17: the one register stored is the wrapped sum of two bytes. -/
theorem addiWrapsWithoutFlag : Obligations.AddiWrapsWithoutFlag := by
  refine fun x nn s => ⟨Laws.mask_XNN 7 x nn, _, rfl, ?_, rfl, s.setReg_advance_changesOnly x _⟩
  exact (congrArg BitVec.toNat (s.reg_setReg_same x _)).trans (BitVec.toNat_add _ _)

/-- Settles O18: the one register stored is the bitwise AND. -/
theorem andIsBitwise : Obligations.AndIsBitwise := by
  refine fun x y s => ⟨Laws.mask_XYF 8 x y 2, _, rfl, fun b => ?_, rfl, s.setReg_advance_changesOnly x _⟩
  exact (congrArg (BitVec.getLsbD · b) (s.reg_setReg_same x _)).trans (BitVec.getLsbD_and ..)

/-- Settles O19: the flag is written after the sum, so the sum stands only where `x` is not `F` (D17), and the carry always. -/
theorem addStoresSumAndCarry : Obligations.AddStoresSumAndCarry := by
  refine fun x y s => ⟨Laws.mask_XYF 8 x y 4, _, rfl, fun hx => ?_, ?_, rfl, ?_⟩
  · have hsum : ((s.setReg x (s.reg x + s.reg y)).setFlag (carryOut (s.reg x) (s.reg y))).reg x = s.reg x + s.reg y := by
      rw [State.reg_setFlag, if_neg hx, State.reg_setReg_same]
    exact (congrArg BitVec.toNat hsum).trans (BitVec.toNat_add _ _)
  · exact (State.reg_setReg_same _ flagReg _).trans (flagByte_carryOut _ _)
  · exact (s.setReg_changesOnly x _).trans (State.setReg_advance_changesOnly _ flagReg _)

/-- Settles O20: the register stored is the next draw under the mask; a draw of `v` itself, inside the mask, answers `v`. -/
theorem rndMasksOneDraw : Obligations.RndMasksOneDraw := by
  refine fun x nn s => ⟨Laws.mask_XNN 0xC x nn, ⟨_, rfl, ?stored, ?masked, rfl, rfl, ?frame⟩, fun v hv => ?reached⟩
  case stored => exact State.reg_setReg_same _ x _
  case masked =>
    exact (congrArg (· &&& ~~~nn) (State.reg_setReg_same s.takeRandom x _)).trans (mask_and_not_mask nn s.randomByteNow)
  case frame => exact (s.setReg_changesOnly x _).trans ((State.takeRandom_changesOnly _).trans (State.advance_changesOnly _))
  case reached => exact ⟨⟨[v], 0⟩, _, rfl, (State.reg_setReg_same _ x _).trans (mask_and_eq_self hv)⟩

end Sys2Proof.Machine

/-! PROOFS. The statements of 43_index_memory.md: what is loaded into `I`, the digits that `BCD` stores, and the registers that
`LDM` loads. -/

namespace Sys2Proof.Machine

/-! ### An instruction by what its checks find (R165) -/

theorem exec_eq_effectOf {ins : Instr} {s : State} (h : s.faultOf ins = none) : exec ins s = .next (s.effectOf ins) := by
  rw [exec_eq, h]
  rfl

theorem exec_eq_raise {ins : Instr} {s : State} {f : FaultRecord} (h : s.faultOf ins = some f) :
    exec ins s = .next (s.raise f) := by
  rw [exec_eq, h]
  rfl

theorem State.faultOf_bcd_eq_none {s : State} (h : s.i.toNat + 2 ≤ 4095) (x : RegIdx) : s.faultOf (.bcd x) = none :=
  if_neg (by rw [State.blockOutOfRange_iff]; omega)

theorem State.faultOf_ldm_eq_none {s : State} {x : RegIdx} (h : s.i.toNat + x.val ≤ 4095) : s.faultOf (.ldm x) = none :=
  if_neg (by rw [State.blockOutOfRange_iff]; omega)

theorem State.faultOf_ldm_eq_blockFault {s : State} {x : RegIdx} (h : 4095 < s.i.toNat + x.val) :
    s.faultOf (.ldm x) = some blockFault :=
  if_pos (by rw [State.blockOutOfRange_iff]; omega)

/-! ### Frames -/

theorem ChangesOnly.mono {p q : Elem → Prop} {s t : State} (h : ChangesOnly p s t) (hpq : ∀ e, p e → q e) :
    ChangesOnly q s t :=
  fun e he => h e fun hp => he (hpq e hp)

theorem State.setI_changesOnly (s : State) (w : Word) : ChangesOnly (fun e => e = .i) s (s.setI w) := by
  intro e he
  cases e with
  | i => exact absurd rfl he
  | _ => rfl

/-- The frame of an instruction that loads `I` and advances. -/
theorem State.setI_advance_changesOnly (s : State) (w : Word) :
    ChangesOnly (fun e => e = .i ∨ e = .pc) s (s.setI w).advance :=
  (s.setI_changesOnly w).trans (State.advance_changesOnly _)

/-- `BCD` changes `pc` and the three bytes of its block (R122). -/
theorem State.effectOf_bcd_changesOnly (s : State) (x : RegIdx) :
    ChangesOnly (fun e => e = .pc ∨ e = .mem s.i.toNat ∨ e = .mem (s.i.toNat + 1) ∨ e = .mem (s.i.toNat + 2)) s
      (s.effectOf (.bcd x)) := by
  refine ((s.storeBytes_changesOnly _ (decimalDigits (s.reg x))).trans (State.advance_changesOnly _)).mono ?_
  rintro e (⟨k, hk, rfl⟩ | rfl)
  · have hlt : k < 3 := hk
    obtain rfl | rfl | rfl : k = 0 ∨ k = 1 ∨ k = 2 := by omega
    · exact .inr (.inl rfl)
    · exact .inr (.inr (.inl rfl))
    · exact .inr (.inr (.inr rfl))
  · exact .inl rfl

/-- `LDM` changes `pc` and the registers up to `V[x]` (R123). -/
theorem State.effectOf_ldm_changesOnly (s : State) (x : RegIdx) :
    ChangesOnly (fun e => e = .pc ∨ ∃ r : RegIdx, r.val ≤ x.val ∧ e = .v r) s (s.effectOf (.ldm x)) := by
  intro e he
  cases e with
  | pc => exact absurd (.inl rfl) he
  | v r => exact State.effectOf_ldm_reg (Nat.lt_of_not_le fun hr => he (.inr ⟨r, hr, rfl⟩))
  | _ => rfl

/-! ### What is stored and loaded -/

theorem ones_toNat (v : Byte) : (v % 10).toNat = v.toNat % 10 := BitVec.toNat_umod

/-- Registers of the block that `LDM` loads are bytes of memory at `I` (R123). -/
theorem State.effectOf_ldm_reg_of_le {s : State} {x r : RegIdx} (h : r.val ≤ x.val) :
    (s.effectOf (.ldm x)).reg r = s.mem.read (s.i.toNat + r.val) :=
  (loadRegs_getElem s.mem s.i.toNat s.v (x.val + 1) r.val r.isLt).trans (if_pos (Nat.lt_succ_of_le h))

/-! ### The statements -/

/-- Settles O23: inside memory the check passes, and the stored digits are read back one by one. -/
theorem bcdStoresDigits : Obligations.BcdStoresDigits := by
  refine fun x s => ⟨Laws.mask_XFF 0xF x 0x33, fun hi => ?_⟩
  obtain ⟨h0, h1, h2⟩ := s.mem.read_store_digits s.i.toNat (s.reg x)
  exact ⟨s.effectOf (.bcd x), exec_eq_effectOf (State.faultOf_bcd_eq_none hi x),
    (congrArg BitVec.toNat h0).trans (hundreds_toNat _), (congrArg BitVec.toNat h1).trans (tens_toNat _),
    (congrArg BitVec.toNat h2).trans (ones_toNat _), rfl, s.effectOf_bcd_changesOnly x⟩

/-- Settles O24: the one check decides between the load and the fault. -/
theorem ldmLoadsRegisterBlock : Obligations.LdmLoadsRegisterBlock := by
  refine fun x s => ⟨Laws.mask_XFF 0xF x 0x65, fun hi => ?_, fun hi => ?_⟩
  · exact ⟨_, exec_eq_effectOf (State.faultOf_ldm_eq_none hi), fun _ => State.effectOf_ldm_reg_of_le, rfl,
      s.effectOf_ldm_changesOnly x⟩
  · exact ⟨_, exec_eq_raise (State.faultOf_ldm_eq_blockFault hi), rfl, rfl⟩

/-- Settles O21: `LDI` loads `I` with the zero-extended operand and advances. -/
theorem ldiLoadsIndex : Obligations.LdiLoadsIndex :=
  fun nnn s => ⟨Laws.mask_fam 0xA nnn, _, rfl, address_toNat nnn, rfl, s.setI_advance_changesOnly _⟩

/-- Settles O22: `LDF` loads `I` with the address of the glyph of the whole byte and advances. -/
theorem ldfPointsAtGlyph : Obligations.LdfPointsAtGlyph :=
  fun x s => ⟨Laws.mask_XFF 0xF x 0x29, _, rfl, glyphAddress_toNat (s.reg x), rfl, s.setI_advance_changesOnly _⟩

end Sys2Proof.Machine

/-! PROOFS. The statements of 44_draw.md: what a draw flips and reports, where it raises, and what two identical draws do. -/

namespace Sys2Proof.Machine

section Draw

variable {s : State} {x y : RegIdx} {n : BitVec 4} {k : Nat}

/-! ### The targets of a draw (R130 to R133) -/

theorem covers_iff_mem_drawTargets : Covers s x y n k ↔ k ∈ s.drawTargets x y n := mem_spriteTargets.symm

theorem State.drawTargets_nodup (s : State) (x y : RegIdx) (n : BitVec 4) : (s.drawTargets x y n).Nodup :=
  spriteTargets_nodup ..

/-- A sprite row is 8 cells and the stride is 64, so cells rise in row-major order (R132). -/
theorem rowMajor_of_spriteCell_lt {row col row' col' : Nat} (h : SpriteBit s n row col) (h' : SpriteBit s n row' col')
    (hlt : spriteCell s x y row' col' < spriteCell s x y row col) : row' < row ∨ row' = row ∧ col' < col := by
  obtain ⟨-, hc, -⟩ := h
  obtain ⟨-, hc', -⟩ := h'
  unfold spriteCell at hlt
  omega

/-! ### The checks of a draw (R133) -/

/-- With the rows in memory only the framebuffer check is left. -/
theorem State.faultOf_drw (h : RowsInMemory s n) (x y : RegIdx) :
    s.faultOf (.drw x y n) = (firstOutside (s.drawTargets x y n)).map (.addressOutOfRange .fb) := by
  refine if_neg ?_
  rw [State.blockOutOfRange_iff]
  unfold RowsInMemory at h
  omega

theorem exec_drw_eq_effectOf (h : RowsInMemory s n) (hb : ∀ k, Covers s x y n k → k ≤ 2047) :
    exec (.drw x y n) s = .next (s.effectOf (.drw x y n)) := by
  refine exec_eq_effectOf ?_
  rw [State.faultOf_drw h, firstOutside_none.mpr fun k hk => hb k (covers_iff_mem_drawTargets.mpr hk)]
  rfl

/-- The draw raises the first cell outside, in row-major order. -/
theorem exec_drw_eq_raise (h : RowsInMemory s n) (hk : Covers s x y n k) (hout : 2048 ≤ k)
    (hmin : ∀ j, Covers s x y n j → j < k → j ≤ 2047) :
    exec (.drw x y n) s = .next (s.raise (.addressOutOfRange .fb k)) := by
  have hfirst : firstOutside (s.drawTargets x y n) = some k :=
    (firstOutside_some (spriteTargets_rising ..)).mpr
      ⟨covers_iff_mem_drawTargets.mp hk, hout, fun j hj => hmin j (covers_iff_mem_drawTargets.mpr hj)⟩
  refine exec_eq_raise ?_
  rw [State.faultOf_drw h, hfirst]
  rfl

/-! ### The pixels after a draw (R130, R132) -/

theorem State.fb_effectOf_drw (hk : k < 2048) :
    (s.effectOf (.drw x y n)).fb.getLsbD k = (s.fb.getLsbD k ^^ decide (k ∈ s.drawTargets x y n)) :=
  getLsbD_toggleCells _ (s.drawTargets_nodup x y n) s.fb k hk

theorem State.fb_effectOf_drw_of_covers (hk : k ≤ 2047) (hc : Covers s x y n k) :
    (s.effectOf (.drw x y n)).fb.getLsbD k = !s.fb.getLsbD k := by
  rw [State.fb_effectOf_drw (by omega), decide_eq_true (covers_iff_mem_drawTargets.mp hc), Bool.xor_true]

theorem State.fb_effectOf_drw_of_not_covers (hc : ¬ Covers s x y n k) :
    (s.effectOf (.drw x y n)).fb.getLsbD k = s.fb.getLsbD k := by
  by_cases hk : k < 2048
  · rw [State.fb_effectOf_drw hk, decide_eq_false fun hm => hc (covers_iff_mem_drawTargets.mpr hm), Bool.xor_false]
  · rw [BitVec.getLsbD_of_ge _ _ (by omega), BitVec.getLsbD_of_ge _ _ (by omega)]

/-- A draw changes its targets, the flag, `fb_dirty` and `pc` (R135). -/
theorem State.effectOf_drw_changesOnly (s : State) (x y : RegIdx) (n : BitVec 4) :
    ChangesOnly (fun e => (∃ k, Covers s x y n k ∧ e = .fb k) ∨ e = .v flagReg ∨ e = .fbDirty ∨ e = .pc) s
      (s.effectOf (.drw x y n)) := by
  intro e he
  cases e with
  | fb k => exact State.fb_effectOf_drw_of_not_covers fun hc => he (.inl ⟨k, hc, rfl⟩)
  | v r => exact (State.reg_setFlag _ _ r).trans (if_neg fun hr => he (.inr (.inl (congrArg Elem.v hr))))
  | fbDirty => exact absurd (.inr (.inr (.inl rfl))) he
  | pc => exact absurd (.inr (.inr (.inr rfl))) he
  | _ => rfl

/-! ### The collision flag of a draw (R134) -/

theorem flagByte_eq_one_iff (c : Bool) : flagByte c = 1 ↔ c = true := by
  cases c <;> decide

theorem flagByte_eq_zero_iff (c : Bool) : flagByte c = 0 ↔ ¬ c = true := by
  cases c <;> decide

theorem State.reg_flag_effectOf_drw (s : State) (x y : RegIdx) (n : BitVec 4) :
    (s.effectOf (.drw x y n)).reg flagReg = flagByte (collides s.fb (s.drawTargets x y n)) :=
  State.reg_setReg_same _ flagReg _

/-- A draw with every target in the framebuffer collides exactly where a covered cell was set before it. -/
theorem collides_drawTargets_iff (hb : ∀ k, Covers s x y n k → k ≤ 2047) :
    collides s.fb (s.drawTargets x y n) = true ↔ ∃ k, Covers s x y n k ∧ s.fb.getLsbD k = true := by
  simp only [covers_iff_mem_drawTargets] at hb ⊢
  exact collides_iff _ (s.drawTargets_nodup x y n) (fun k hk => Nat.lt_succ_of_le (hb k hk)) s.fb

theorem State.flag_effectOf_drw_eq_one_iff (hb : ∀ k, Covers s x y n k → k ≤ 2047) :
    (s.effectOf (.drw x y n)).reg flagReg = 1 ↔ ∃ k, Covers s x y n k ∧ s.fb.getLsbD k = true := by
  rw [State.reg_flag_effectOf_drw, flagByte_eq_one_iff, collides_drawTargets_iff hb]

theorem State.flag_effectOf_drw_eq_zero_iff (hb : ∀ k, Covers s x y n k → k ≤ 2047) :
    (s.effectOf (.drw x y n)).reg flagReg = 0 ↔ ¬ ∃ k, Covers s x y n k ∧ s.fb.getLsbD k = true := by
  rw [State.reg_flag_effectOf_drw, flagByte_eq_zero_iff, collides_drawTargets_iff hb]

/-! ### The second of two identical draws (R136) -/

section Twice

variable (hx : x ≠ flagReg) (hy : y ≠ flagReg)

include hx hy

/-- A draw whose operands are not `V[F]` leaves its own operands, so the second has the targets of the first. -/
theorem State.drawTargets_effectOf_drw : (s.effectOf (.drw x y n)).drawTargets x y n = s.drawTargets x y n := by
  have hreg : ∀ r, r ≠ flagReg → (s.effectOf (.drw x y n)).reg r = s.reg r :=
    fun r hr => (State.reg_setFlag _ _ r).trans (if_neg hr)
  rw [State.drawTargets, hreg x hx, hreg y hy]
  rfl

theorem covers_effectOf_drw_iff : Covers (s.effectOf (.drw x y n)) x y n k ↔ Covers s x y n k := by
  rw [covers_iff_mem_drawTargets, covers_iff_mem_drawTargets, State.drawTargets_effectOf_drw hx hy]

/-- The two draws flip the same cells, each one twice. -/
theorem State.fb_effectOf_drw_twice : ((s.effectOf (.drw x y n)).effectOf (.drw x y n)).fb = s.fb := by
  refine BitVec.eq_of_getLsbD_eq fun k hk => ?_
  rw [State.fb_effectOf_drw hk, State.drawTargets_effectOf_drw hx hy, State.fb_effectOf_drw hk, Bool.xor_assoc,
    Bool.xor_self, Bool.xor_false]

/-- A cell that the second draw meets set is one that the first met clear. -/
theorem State.flag_effectOf_drw_twice_eq_one_iff (hb : ∀ k, Covers s x y n k → k ≤ 2047) :
    ((s.effectOf (.drw x y n)).effectOf (.drw x y n)).reg flagReg = 1 ↔
      ∃ k, Covers s x y n k ∧ s.fb.getLsbD k = false := by
  rw [State.flag_effectOf_drw_eq_one_iff fun k hc => hb k ((covers_effectOf_drw_iff hx hy).mp hc)]
  refine exists_congr fun k => ?_
  rw [covers_effectOf_drw_iff hx hy]
  refine and_congr_right fun hc => ?_
  rw [State.fb_effectOf_drw_of_covers (hb k hc) hc, Bool.not_eq_true']

theorem exec_drw_second_eq_effectOf (h : RowsInMemory s n) (hb : ∀ k, Covers s x y n k → k ≤ 2047) :
    exec (.drw x y n) (s.effectOf (.drw x y n)) = .next ((s.effectOf (.drw x y n)).effectOf (.drw x y n)) :=
  exec_drw_eq_effectOf h fun k hc => hb k ((covers_effectOf_drw_iff hx hy).mp hc)

end Twice

end Draw

/-! ### A framebuffer on which R136 (a) fails -/

/-- The invariant does not read the framebuffer. -/
theorem State.Inv.withFb {s : State} (h : s.Inv) (fb : FrameBits) : State.Inv { s with fb := fb } :=
  ⟨h.memCanonical, h.indexInMemory, h.pcRunning, h.pcWaiting, h.delayZero, h.soundBelow255, h.stackInert, h.noFault,
    h.faultRecorded⟩

/-- The reset state with every cell of the framebuffer set. -/
def State.fullFrame : State := { State.reset with fb := BitVec.allOnes 2048 }

/-- The targets of the top row of glyph 0, drawn at the origin. -/
theorem State.drawTargets_fullFrame : State.fullFrame.drawTargets 0 0 1 = [0, 1, 2, 3] := by decide

theorem State.fb_fullFrame {k : Nat} (hk : k ≤ 2047) : State.fullFrame.fb.getLsbD k = true :=
  BitVec.getLsbD_allOnes.trans (decide_eq_true (Nat.lt_succ_of_le hk))

/-! ### The statements -/

/-- Settles O26: the checks pass, and the effect is read pixel by pixel. -/
theorem drwXorsSprite : Obligations.DrwXorsSprite := by
  refine fun x y n s => ⟨Laws.mask_XYN 0xD x y n, fun hr hb => ?_⟩
  exact ⟨_, exec_drw_eq_effectOf hr hb, fun k hc => State.fb_effectOf_drw_of_covers (hb k hc) hc,
    (State.flag_effectOf_drw_eq_one_iff hb).mpr, (State.flag_effectOf_drw_eq_zero_iff hb).mpr, rfl, rfl,
    s.effectOf_drw_changesOnly x y n⟩

/-- Settles O27: a covered cell below the given one belongs to an earlier sprite bit, and those are all within. -/
theorem drwPixelOutsideHalts : Obligations.DrwPixelOutsideHalts := by
  intro x y n s row col hr hbit hout hearlier
  refine ⟨_, exec_drw_eq_raise hr ⟨row, col, hbit, rfl⟩ hout ?_, rfl, rfl⟩
  rintro _ ⟨row', col', hbit', rfl⟩ hlt
  exact hearlier row' col' hbit' (rowMajor_of_spriteCell_lt hbit hbit' hlt)

/-- Settles O28: the second draw has the targets of the first and meets them inverted. -/
theorem drwTwiceRestoresFramebuffer : Obligations.DrwTwiceRestoresFramebuffer := by
  intro x y n s hx hy hr hb
  have hflag := State.flag_effectOf_drw_twice_eq_one_iff hx hy hb
  refine ⟨_, _, exec_drw_eq_effectOf hr hb, exec_drw_second_eq_effectOf hx hy hr hb, State.fb_effectOf_drw_twice hx hy,
    hflag, fun h0 => hflag.trans (exists_congr fun k => and_iff_left ?_)⟩
  rw [h0]
  exact BitVec.getLsbD_zero

/-- Refutes O29: on the full framebuffer the first draw of a glyph row clears its four cells and the second meets none. -/
theorem not_secondDrawAlwaysCollides : ¬ Obligations.SecondDrawAlwaysCollides := by
  intro h
  have hF : (0 : RegIdx) ≠ flagReg := by decide
  have hrows : RowsInMemory State.fullFrame 1 := .inr (by decide)
  have htargets : ∀ k, Covers State.fullFrame 0 0 1 k ↔ k ∈ [0, 1, 2, 3] := fun k => by
    rw [covers_iff_mem_drawTargets, State.drawTargets_fullFrame]
  have hb : ∀ k, Covers State.fullFrame 0 0 1 k → k ≤ 2047 := by
    simp only [htargets]
    decide
  have hcollides := (h 0 0 1 _ _ _ (State.Inv.withFb resetMeetsInvariant _) rfl hF hF hrows hb
    (exec_drw_eq_effectOf hrows hb) (exec_drw_second_eq_effectOf hF hF hrows hb)).mpr ⟨0, (htargets 0).mpr (by decide)⟩
  obtain ⟨k, hc, hclear⟩ := (State.flag_effectOf_drw_twice_eq_one_iff hF hF hb).mp hcollides
  rw [State.fb_fullFrame (hb k hc)] at hclear
  cases hclear

end Sys2Proof.Machine

/-! PROOFS. The statements of 45_keypad.md: the two key skips, the suspension by `WKEY`, and what its polls choose and change. -/

namespace Sys2Proof.Machine

/-! ### The key skips (R140, R141, R144) -/

theorem keyOutOfRange_iff (k : Byte) : keyOutOfRange k = true ↔ 15 < k.toNat := decide_eq_true_iff

/-- `SKP` and `SKNP` pass their check on a key of the keypad. -/
theorem State.faultOf_keySkip_eq_none {s : State} {x : RegIdx} (h : (s.reg x).toNat ≤ 15) :
    s.faultOf (.skp x) = none ∧ s.faultOf (.sknp x) = none := by
  have hk : ¬ keyOutOfRange (s.reg x) = true := by rw [keyOutOfRange_iff]; omega
  exact ⟨if_neg hk, if_neg hk⟩

/-- The check of `SKP` and `SKNP` finds any other index (R144). -/
theorem State.faultOf_keySkip_eq_keyFault {s : State} {x : RegIdx} (h : 15 < (s.reg x).toNat) :
    s.faultOf (.skp x) = some (keyFault (s.reg x)) ∧ s.faultOf (.sknp x) = some (keyFault (s.reg x)) := by
  have hk := (keyOutOfRange_iff _).mpr h
  exact ⟨if_pos hk, if_pos hk⟩

/-- A skip on the negated condition exchanges the two targets. -/
theorem State.skipIf_not_pc (s : State) (c : Bool) : (s.skipIf !c).pc = if c then s.pc + 2 else s.pc + 4 := by
  cases c <;> rfl

/-! ### The key that a poll chooses (R143) -/

theorem leastKey_eq_some_iff {ks : KeySet} {k : Nat} (hk : k < 16) :
    leastKey ks = some k ↔ ks.getLsbD k = true ∧ ∀ j < k, ks.getLsbD j = false :=
  leastKey_some.trans (and_iff_right hk)

theorem getLsbD_newKeys_edge_eq_false_iff {before now : KeySet} {k : Nat} :
    (newKeys .edge before now).getLsbD k = false ↔ ¬ NewlyPressed before now k :=
  Bool.eq_false_iff.trans (not_congr (newKeys_edge before now k))

theorem leastKey_newKeys_edge_eq_some_iff {before now : KeySet} {k : Nat} (hk : k < 16) :
    leastKey (newKeys .edge before now) = some k ↔
      NewlyPressed before now k ∧ ∀ j, j < k → ¬ NewlyPressed before now j :=
  (leastKey_eq_some_iff hk).trans
    (and_congr (newKeys_edge before now k) (forall₂_congr fun _ _ => getLsbD_newKeys_edge_eq_false_iff))

theorem leastKey_newKeys_edge_eq_none_iff {before now : KeySet} :
    leastKey (newKeys .edge before now) = none ↔ ∀ k, k < 16 → ¬ NewlyPressed before now k :=
  leastKey_none.trans (forall₂_congr fun _ _ => getLsbD_newKeys_edge_eq_false_iff)

/-! ### The suspension and its polls (R142) -/

theorem State.withStatus_changesOnly (s : State) (st : Status) :
    ChangesOnly (fun e => e = .status) s { s with status := st } := by
  intro e he
  cases e with
  | status => exact absurd rfl he
  | _ => rfl

theorem State.timerTick_changesOnly (s : State) :
    ChangesOnly (fun e => e = .dt ∨ e = .st ∨ e = .soundExpire) s s.timerTick := by
  intro e he
  cases e with
  | dt | st | soundExpire => exact absurd (by simp) he
  | _ => rfl

/-- The end of a wait is a register write, the deferred advance, the tick and the change of status. -/
theorem State.completeWait_changesOnly (s : State) (x : RegIdx) (k : Nat) :
    ChangesOnly (fun e => ((e = .v x ∨ e = .pc) ∨ e = .dt ∨ e = .st ∨ e = .soundExpire) ∨ e = .status) s
      (s.completeWait x k) :=
  ((s.setReg_advance_changesOnly x _).trans (State.timerTick_changesOnly _)).trans (State.withStatus_changesOnly _ _)

/-- The index of a key fits a register. -/
theorem State.completeWait_reg_toNat (s : State) (x : RegIdx) {k : Nat} (hk : k < 16) :
    ((s.completeWait x k).reg x).toNat = k := by
  have hreg : (s.completeWait x k).reg x = BitVec.ofNat 8 k := s.reg_setReg_same x _
  rw [hreg, BitVec.toNat_ofNat]
  omega

section Waiting

variable {s : State} {x : RegIdx} (hw : s.status = .waitKey x) (ho : s.hostOpenNow = true)
include hw ho

/-- A poll that finds a new key completes the wait after the boundary, and one that finds none is the boundary alone. -/
theorem step_completes_wait {k : Nat} (hk : leastKey (newKeys keywaitTrigger s.keys s.keySampleNow) = some k) :
    step s = .next (s.betweenCycles.cycleStart.completeWait x k) := by
  rw [step_waiting hw, State.poll_completes (s := s.betweenCycles) ho hk]
  rfl

theorem step_keeps_waiting (hk : leastKey (newKeys keywaitTrigger s.keys s.keySampleNow) = none) :
    step s = .next s.betweenCycles.cycleStart := by
  rw [step_waiting hw, State.poll_waits (s := s.betweenCycles) ho hk]
  rfl

end Waiting

/-- An instruction that ends its cycle in a key-wait is the `WKEY` of that register (R145). -/
theorem eq_wkey_of_exec_status {ins : Instr} {s t : State} {x : RegIdx} (h : exec ins s = .next t)
    (hr : s.status = .running) (ht : t.status = .waitKey x) : ins = .wkey x := by
  obtain ⟨f, rfl⟩ | ⟨y, rfl, rfl⟩ | ⟨-, hs, -⟩ := exec_status h
  · cases ht
  · cases ht; rfl
  · rw [hs, hr] at ht; cases ht

/-- A poll never starts a wait: a status `WaitKey` after it stood before it. -/
theorem State.status_of_poll_waitKey {s : State} {x y : RegIdx} (h : (s.poll x).status = .waitKey y) :
    s.status = .waitKey y := by
  obtain ⟨-, hp⟩ | ⟨-, -, hp⟩ | ⟨-, k, -, hp⟩ := poll_cases s x <;> rw [hp] at h
  · cases h
  · exact h
  · cases h

/-! ### The statements -/

/-- Settles O32: `WKEY` writes the status alone, and the poll that finds `k` is the boundary and then the end of the wait. -/
theorem wkeySuspendsThenStoresKey : Obligations.WkeySuspendsThenStoresKey := by
  refine fun x s => ⟨Laws.mask_XFF 0xF x 0x0A, ⟨_, rfl, rfl, s.withStatus_changesOnly _⟩, fun k hk hw ho hnew hleast => ?_⟩
  have hkey := (leastKey_newKeys_edge_eq_some_iff hk).mpr ⟨hnew, hleast⟩
  refine ⟨_, step_completes_wait hw ho hkey, State.completeWait_reg_toNat _ x hk, rfl, rfl, rfl, countdown_toNat _,
    countdown_toNat _, (s.cycleStart_changesOnly.trans (State.completeWait_changesOnly _ x k)).mono ?_⟩
  rintro e (hb | ((rfl | rfl) | rfl | rfl | rfl) | rfl)
  · exact .inl hb
  all_goals simp [BoundaryElem]

/-- Settles O33: without a new key the poll is the boundary alone, which takes the sample. -/
theorem pollWithoutNewKeyWaits : Obligations.PollWithoutNewKeyWaits :=
  fun _ s hw ho hnone =>
    ⟨_, step_keeps_waiting hw ho (leastKey_newKeys_edge_eq_none_iff.mpr hnone), hw, rfl, s.cycleStart_changesOnly⟩

/-- Settles O34: under `level` the new keys are the sample itself. -/
theorem newKeyUnderBothTriggers : Obligations.NewKeyUnderBothTriggers :=
  fun _ _ _ hk => ⟨leastKey_newKeys_edge_eq_some_iff hk, leastKey_eq_some_iff hk⟩

/-- Settles O50: a stop and a fault end the run, so a wait comes from the fetched instruction or from a poll. -/
theorem onlyWkeySuspends : Obligations.OnlyWkeySuspends := by
  intro s t x hs ht
  obtain ⟨-, -, rfl⟩ | ⟨-, -, f, rfl⟩ | ⟨hr, -, ins, u, hf, he, rfl⟩ | ⟨y, -, rfl⟩ := step_cases hs
  · cases ht
  · cases ht
  · rw [State.endCycle_status] at ht
    obtain rfl := eq_wkey_of_exec_status he hr ht
    exact .inr ⟨hr, hf⟩
  · exact .inl (State.status_of_poll_waitKey (s := s.betweenCycles) ht)

/-- Settles O30: on a key of the keypad both instructions are skips, on opposite conditions. -/
theorem keySkipsFollowTheLatch : Obligations.KeySkipsFollowTheLatch := by
  refine fun x s => ⟨Laws.mask_XFF 0xE x 0x9E, Laws.mask_XFF 0xE x 0xA1, fun h => ?_⟩
  obtain ⟨hskp, hsknp⟩ := State.faultOf_keySkip_eq_none h
  exact ⟨_, _, exec_eq_effectOf hskp, exec_eq_effectOf hsknp, rfl, s.skipIf_not_pc _, s.skipIf_changesOnly _,
    s.skipIf_changesOnly _⟩

/-- Settles O31: the one check that both instructions share records the whole value of `V[x]`. -/
theorem keyIndexOutsideHalts : Obligations.KeyIndexOutsideHalts := by
  intro x s h
  obtain ⟨hskp, hsknp⟩ := State.faultOf_keySkip_eq_keyFault h
  exact ⟨⟨_, exec_eq_raise hskp, rfl, rfl⟩, ⟨_, exec_eq_raise hsknp, rfl, rfl⟩⟩

end Sys2Proof.Machine

/-! PROOFS. The statements of 46_timer.md: what `LDST` stores, how the tick counts down, when it marks `sound_expire`, and that no
instruction reads a timer. -/

namespace Sys2Proof.Machine

/-! ### The tick, repeated (R151) -/

/-- Counting a byte down `k` times is truncated subtraction of `k`, since one countdown is the predecessor. -/
theorem countdown_iterate_toNat (k : Nat) (t : Byte) : (countdown^[k] t).toNat = t.toNat - k := by
  have hpred : Function.Semiconj BitVec.toNat countdown Nat.pred := countdown_toNat
  rw [(hpred.iterate_right k).eq, Nat.pred_iterate]

/-- Under repeated ticks each timer counts down on its own. -/
theorem State.timerTick_iterate_dt (k : Nat) (s : State) : (State.timerTick^[k] s).dt = countdown^[k] s.dt :=
  Function.Semiconj.iterate_right (f := State.dt) State.timerTick_dt k s

theorem State.timerTick_iterate_st (k : Nat) (s : State) : (State.timerTick^[k] s).st = countdown^[k] s.st :=
  Function.Semiconj.iterate_right (f := State.st) State.timerTick_st k s

/-! ### The value of `ST` at the tick of a cycle (R152, R195) -/

/-- The tick of the step from `s`, if it completes, finds `ST` at 1: the value `LDST` writes in the same cycle, else the old one. -/
def State.SoundAtOne (s : State) : Prop :=
  (s.st = 1 ∧ ∀ x, ¬ (s.status = .running ∧ FetchesInstr s (.ldst x))) ∨
    ∃ x, s.status = .running ∧ FetchesInstr s (.ldst x) ∧ s.reg x = 1

theorem State.soundAtOne_of_ldst {s : State} {x : RegIdx} (hr : s.status = .running) (hf : FetchesInstr s (.ldst x)) :
    s.SoundAtOne ↔ s.reg x = 1 := by
  refine ⟨?_, fun h => .inr ⟨x, hr, hf, h⟩⟩
  rintro (⟨-, hno⟩ | ⟨y, -, hy, h⟩)
  · exact absurd ⟨hr, hf⟩ (hno x)
  · cases fetchesInstr_unique hf hy
    exact h

theorem State.soundAtOne_of_not_ldst {s : State} (hno : ∀ x, ¬ (s.status = .running ∧ FetchesInstr s (.ldst x))) :
    s.SoundAtOne ↔ s.st = 1 := by
  refine ⟨?_, fun h => .inl ⟨h, hno⟩⟩
  rintro (⟨h, -⟩ | ⟨x, hr, hf, -⟩)
  · exact h
  · exact absurd ⟨hr, hf⟩ (hno x)

/-- After the fetched instruction `ST` is what `SoundAtOne` says: `LDST` alone writes it. -/
theorem State.effectOf_st_eq_one_iff {s : State} {ins : Instr} (hr : s.status = .running) (hf : FetchesInstr s ins) :
    (s.betweenCycles.cycleStart.effectOf ins).st = 1 ↔ s.SoundAtOne := by
  by_cases hl : ∃ x, ins = .ldst x
  · obtain ⟨x, rfl⟩ := hl
    exact (State.soundAtOne_of_ldst hr hf).symm
  · rw [State.effectOf_st fun x hx => hl ⟨x, hx⟩]
    exact (State.soundAtOne_of_not_ldst fun x hx => hl ⟨x, fetchesInstr_unique hf hx.2⟩).symm

/-! ### Other values in the timers (R153) -/

/-- The state with other values in `DT` and `ST`. -/
def State.withTimers (a b : Byte) (s : State) : State := { s with dt := a, st := b }

theorem State.withTimers_changesOnly (a b : Byte) (s : State) :
    ChangesOnly (fun e => e = .dt ∨ e = .st) s (s.withTimers a b) := by
  intro e he
  cases e with
  | dt | st => exact absurd (by simp) he
  | _ => rfl

/-- No check reads a timer. -/
theorem State.faultOf_withTimers (a b : Byte) (s : State) (ins : Instr) :
    (s.withTimers a b).faultOf ins = s.faultOf ins := by
  cases ins <;> rfl

/-- No effect reads a timer: `LDST` overwrites `ST` with a register, and every other effect carries both timers along. -/
theorem State.effectOf_withTimers (a b : Byte) (s : State) (ins : Instr) :
    ∃ c, (s.withTimers a b).effectOf ins = (s.effectOf ins).withTimers a c := by
  cases ins with
  | ldst x => exact ⟨s.reg x, rfl⟩
  | _ => exact ⟨b, rfl⟩

/-- An instruction that did not halt the machine passed its checks. -/
theorem faultOf_eq_none_of_exec {ins : Instr} {s t : State} (h : exec ins s = .next t) (hn : t.status ≠ .halted) :
    s.faultOf ins = none := by
  by_contra hsome
  obtain ⟨f, hf⟩ := Option.ne_none_iff_exists'.mp hsome
  rw [exec_eq_raise hf] at h
  cases h
  exact hn rfl

/-! ### The frame of `LDST` (R150) -/

theorem State.setSt_changesOnly (s : State) (b : Byte) : ChangesOnly (fun e => e = .st) s (s.setSt b) := by
  intro e he
  cases e with
  | st => exact absurd rfl he
  | _ => rfl

/-! ### The statements -/

/-- Settles O36: each timer is a byte counted down on its own. -/
theorem tickCountsDownToZero : Obligations.TickCountsDownToZero := by
  refine fun s => ⟨s.timerTick_changesOnly, fun k => ?_⟩
  rw [State.timerTick_iterate_dt, State.timerTick_iterate_st]
  exact ⟨countdown_iterate_toNat k s.dt, countdown_iterate_toNat k s.st⟩

/-- Settles O38: the boundary of a step ends the pulse, and only the tick of a completed cycle or wait asserts it again. -/
theorem soundExpireMarksOneToZero : Obligations.SoundExpireMarksOneToZero := by
  intro s t hs hn
  change t.soundExpire = true ↔ t.status = .running ∧ s.SoundAtOne
  obtain ⟨f, rfl⟩ | rfl | ⟨x, rfl⟩ | ⟨hr, ht, ins, hf, rfl⟩ | ⟨x, k, hw, rfl⟩ := step_end_cases hs
  · exact absurd rfl hn
  · exact ⟨nofun, nofun⟩
  · exact ⟨nofun, nofun⟩
  · rw [and_iff_right ht, State.timerTick_soundExpire, beq_iff_eq]
    exact State.effectOf_st_eq_one_iff hr hf
  · have hno : ∀ y, ¬ (s.status = .running ∧ FetchesInstr s (.ldst y)) := by simp [hw]
    rw [State.soundAtOne_of_not_ldst hno]
    exact beq_iff_eq.trans (and_iff_right rfl).symm

/-- Settles O54: with other timers the checks find the same and the effect is the same but for the timers. -/
theorem timersAreWriteOnly : Obligations.TimersAreWriteOnly := by
  intro ins s t a b he hn
  have hchecks : (s.withTimers a b).faultOf ins = none :=
    (s.faultOf_withTimers a b ins).trans (faultOf_eq_none_of_exec he hn)
  obtain rfl := eq_effectOf_of_exec he hn
  obtain ⟨c, hc⟩ := s.effectOf_withTimers a b ins
  refine ⟨(s.withTimers a b).effectOf ins, exec_eq_effectOf hchecks, ?_⟩
  rw [hc]
  exact State.withTimers_changesOnly a c _

/-- Settles O35: `LDST` stores `ST` and advances. -/
theorem ldstSetsSoundTimer : Obligations.LdstSetsSoundTimer :=
  fun x s => ⟨Laws.mask_XFF 0xF x 0x18, _, rfl, rfl, rfl, (s.setSt_changesOnly _).trans (State.advance_changesOnly _)⟩

end Sys2Proof.Machine

/-! PROOFS. The statements of 60_exceptions.md: what a raise leaves behind, the Loader's rejection of a long image, and the blocks
of `BCD` and `DRW` past the last cell. -/

namespace Sys2Proof.Machine

/-! ### The halted machine (R32, R164) -/

theorem State.haltedWith_raise (s : State) (f : FaultRecord) : HaltedWith (s.raise f) f :=
  ⟨s.raise_status f, s.raise_fault f⟩

theorem step_of_halted {s : State} (h : s.status = .halted) : step s = .fault .halted := by
  obtain ⟨-, hhalted, -⟩ := stepEndsOnlyWhenRunIsOver s
  exact hhalted h

/-! ### Where the checks of R161 and R163 fail -/

/-- The Loader on an image that does not fit (R163). -/
theorem State.load_of_too_long (s : State) {image : List Byte} (h : 3584 < image.length) :
    s.load image = s.raise (.imageTooLarge image.length) :=
  if_neg fun hfits => Nat.not_le_of_gt h (of_decide_eq_true hfits)

theorem State.faultOf_bcd_eq_blockFault {s : State} (h : 4095 < s.i.toNat + 2) (x : RegIdx) :
    s.faultOf (.bcd x) = some blockFault :=
  if_pos ((s.blockOutOfRange_iff 3).mpr ⟨by decide, h⟩)

/-- The memory check of a draw comes before its framebuffer check, so its fault stands whatever the targets are (R133, D22). -/
theorem State.faultOf_drw_eq_blockFault {s : State} {n : BitVec 4} (hn : 1 ≤ n.toNat) (h : 4095 < s.i.toNat + n.toNat - 1)
    (x y : RegIdx) : s.faultOf (.drw x y n) = some blockFault :=
  if_pos ((s.blockOutOfRange_iff n.toNat).mpr ⟨hn, h⟩)

/-! ### The statements -/

/-- Settles O44: a raise halts with its record, and a halted machine has no step. -/
theorem raiseEndsTheRun : Obligations.RaiseEndsTheRun :=
  fun s f => ⟨s.haltedWith_raise f, step_of_halted (s.raise_status f)⟩

/-- Settles O8: a rejected image is a raise, so `RaiseEndsTheRun` says the rest. -/
theorem loaderRejectsLongImage : Obligations.LoaderRejectsLongImage := by
  intro s image hlen
  rw [s.load_of_too_long hlen]
  exact raiseEndsTheRun s _

/-- Settles O25: each block past the last cell fails the first check of its instruction, and the failed check is a raise. -/
theorem blockPastMemoryHalts : Obligations.BlockPastMemoryHalts := by
  refine ⟨fun x s hi => ?_, fun x y n s hn hi => ?_⟩
  · exact ⟨_, exec_eq_raise (State.faultOf_bcd_eq_blockFault hi x), s.haltedWith_raise _⟩
  · exact ⟨_, exec_eq_raise (State.faultOf_drw_eq_blockFault hn hi x y), s.haltedWith_raise _⟩

end Sys2Proof.Machine

/-! PROOFS. The statements of 70_reset_and_hazards.md: the values after reset, and the invariant after the Loader. -/

namespace Sys2Proof.Machine

/-! ### The reset contents of memory (R28, R40) -/

/-- The glyphs fill the first 80 cells, and every other cell resets to `INIT_MEM`. -/
theorem resetByte_of_ge {a : Nat} (h : 80 ≤ a) : resetByte a = 0 := List.getD_eq_default font initMem h

/-! ### The Loader keeps the invariant (R64, R163) -/

/-- A block stored inside memory touches nothing that the invariant bounds, and keeps the canonical form. -/
theorem State.Inv.storeBytes {s : State} (h : s.Inv) {a : Nat} {bs : List Byte} (hfit : a + bs.length ≤ 4096) :
    (s.storeBytes a bs).Inv :=
  { h with memCanonical := Memory.wf_store h.memCanonical hfit }

/-- The Loader keeps the invariant from any state: it is a raise, or one store inside memory. -/
theorem State.Inv.load {s : State} (h : s.Inv) (image : List Byte) : (s.load image).Inv := by
  obtain hlong | hfits := Nat.lt_or_ge 3584 image.length
  · rw [s.load_of_too_long hlong]
    exact h.raise _
  · rw [s.load_of_fits hfits]
    exact h.storeBytes (by omega)

/-! ### The statements -/

/-- Settles O57: the Loader keeps the invariant, which the reset state meets. -/
theorem bootMeetsInvariant : Obligations.BootMeetsInvariant :=
  fun image => State.Inv.load resetMeetsInvariant image

/-- Settles O6: the registers, the stack and the framebuffer are all zeros, and memory reads as its reset contents. -/
theorem resetHoldsChosenValues : Obligations.ResetHoldsChosenValues := by
  have hreg : ∀ x, State.reset.reg x = 0 := fun x => Vector.getElem_replicate x.isLt
  have hstack : ∀ k : Fin 16, State.reset.stack[k] = 0 := fun k => Vector.getElem_replicate k.isLt
  have hfb : ∀ k, State.reset.fb.getLsbD k = false := fun _ => BitVec.getLsbD_zero
  exact ⟨hreg, rfl, rfl, rfl, hstack, rfl, hfb, rfl, rfl, fun _ => resetByte_of_ge⟩

end Sys2Proof.Machine
